-- ==== Sys2Proof/Word.lean ====
section
/-! DEFINITION. Words, halfwords and bytes (00_scope.md R4, R5, R6; 20_memory.md R23). -/

namespace Sys2Proof

/-- A general register, HIGH, LOW, the program counter, an address, an instruction: 32 bits (R4). -/
abbrev Word := BitVec 32

/-- A halfword: 16 bits (R4, R23). -/
abbrev Half := BitVec 16

/-- A byte: 8 bits (R4, R23). -/
abbrev Byte := BitVec 8

end Sys2Proof
end

