-- ==== Sys2Proof/Config.lean ====
section
/-! DEFINITION. The implementation parameters of 00_scope.md R4: the spec leaves five of them open
(`ENDIAN`, `Admitted`, `Environment`, `RESET_PC`, `DIV0`). The first three are plain data
(`Platform`), which the machine's state carries unchanged, so that a statement over every state
covers every value of them. `DIV0` is a free value: an uninterpreted constant. `RESET_PC` has a
value that the assumption log names. What an `Environment` does when it resumes a run needs the
state: see Machine/Environment.lean. -/

namespace Sys2Proof

/-- `ENDIAN` (R4, 20_memory.md R24): the byte order of data and of instruction fetch alike. -/
inductive Endian where
  /-- Byte `j` of a value lies at `addr + j`. -/
  | little
  /-- Byte `j` of an `n`-byte value lies at `addr + n - 1 - j`. -/
  | big
deriving DecidableEq, Repr

/-- The kinds of access that `Admitted` and `AddressError` tell apart (20_memory.md R31,
60_exceptions.md R133). -/
inductive AccessKind where
  | fetch
  | load
  | store
deriving DecidableEq, Repr

/-- One row of what the platform does not admit: accesses of one kind and one size whose first byte
lies at an address from `first` to `last`. Any predicate `Admitted(kind, addr, n)` (20_memory.md
R31) is a list of such rows. DESIGN CHOICE (log entry 2), safe: the form only, not a value. -/
structure Denial where
  kind : AccessKind
  size : Nat
  first : Nat
  last : Nat
deriving DecidableEq, Repr

/-- `Environment` (R4, 60_exceptions.md R143): what follows a trap. -/
inductive Environment where
  /-- The spec's default: nothing follows, the run is over. -/
  | terminal
  /-- A non-default environment: a function from the trap and the state to a new state from which
  stepping resumes. The function itself is `Config.environment` (Machine/Environment.lean), which
  nothing constrains. -/
  | resuming
deriving DecidableEq, Repr

/-- The open parameters that are plain data: fixed for a whole run, no instruction reads or writes
them (20_memory.md R24). -/
structure Platform where
  endian : Endian
  denied : List Denial
  environment : Environment
deriving DecidableEq, Repr

/-- The defaults of R4: little, everything admitted, terminal. -/
def Config.platform : Platform :=
  { endian := .little, denied := [], environment := .terminal }

/-- `RESET_PC` (R4, 10_state.md R21), which the spec leaves open but for its being a multiple of 4.
DESIGN CHOICE (log entry 5), unsafe. -/
def Config.resetPc : Word := 0x00000000#32

/-- What a byte of memory reads as that the memory's list does not hold. DESIGN CHOICE (log entry
8), unsafe for the machine at reset; the list can still hold every content of memory. -/
def Config.unlistedByte : Byte := 0x00#8

/-- `DIV0(rs_value, rt_value, signed)` (R4, 42_muldiv.md R88, R89, U1): the pair (LO, HI) after a
division by zero. A free value: nothing constrains it (log entry 9). -/
opaque Config.div0 : Word → Word → Bool → Word × Word

end Sys2Proof
end

