-- ==== Sys2Proof/Syntax.lean ====
section
/-! DEFINITION. The 57 instructions (00_scope.md R3), one constructor per row of the opcode table.
Operands stand in the order of the assembler syntax of 30_encoding.md R52, each typed by the width
of its field (R41 to R44), so that an operand the encoding cannot hold cannot be written. -/

namespace Sys2Proof

/-- A register field: 5 bits, naming one of 32 general registers (10_state.md R10). -/
abbrev Reg := BitVec 5

/-- The shift amount field `sa`: 5 bits (R41, R45). -/
abbrev Shamt := BitVec 5

/-- The field `imm16`: an immediate, a load or store offset, or a branch offset in words (R42). -/
abbrev Imm16 := BitVec 16

/-- The field `imm26` of `j` and `jal` (R43). -/
abbrev Imm26 := BitVec 26

/-- The instructions, in the order of spec/opcode_table.json. -/
inductive Instr where
  | add (rd rs rt : Reg)
  | addi (rt rs : Reg) (imm : Imm16)
  | addiu (rt rs : Reg) (imm : Imm16)
  | addu (rd rs rt : Reg)
  | and (rd rs rt : Reg)
  | andi (rt rs : Reg) (imm : Imm16)
  | beq (rs rt : Reg) (imm : Imm16)
  | bgez (rs : Reg) (imm : Imm16)
  | bgezal (rs : Reg) (imm : Imm16)
  | bgtz (rs : Reg) (imm : Imm16)
  | blez (rs : Reg) (imm : Imm16)
  | bltzal (rs : Reg) (imm : Imm16)
  | bltz (rs : Reg) (imm : Imm16)
  | bne (rs rt : Reg) (imm : Imm16)
  | div (rs rt : Reg)
  | divu (rs rt : Reg)
  | j (imm : Imm26)
  | jal (imm : Imm26)
  | jalr (rd rs : Reg)
  | jr (rs : Reg)
  | lb (rt : Reg) (offset : Imm16) (rs : Reg)
  | lbu (rt : Reg) (offset : Imm16) (rs : Reg)
  | lh (rt : Reg) (offset : Imm16) (rs : Reg)
  | lhu (rt : Reg) (offset : Imm16) (rs : Reg)
  | lui (rt : Reg) (imm : Imm16)
  | lw (rt : Reg) (offset : Imm16) (rs : Reg)
  | lwl (rt : Reg) (offset : Imm16) (rs : Reg)
  | lwr (rt : Reg) (offset : Imm16) (rs : Reg)
  | mfhi (rd : Reg)
  | mflo (rd : Reg)
  | mthi (rs : Reg)
  | mtlo (rs : Reg)
  | mult (rs rt : Reg)
  | multu (rs rt : Reg)
  | nor (rd rs rt : Reg)
  | or (rd rs rt : Reg)
  | ori (rt rs : Reg) (imm : Imm16)
  | sb (rt : Reg) (offset : Imm16) (rs : Reg)
  | sh (rt : Reg) (offset : Imm16) (rs : Reg)
  | sll (rd rt : Reg) (sa : Shamt)
  | sllv (rd rt rs : Reg)
  | slt (rd rs rt : Reg)
  | slti (rt rs : Reg) (imm : Imm16)
  | sltiu (rt rs : Reg) (imm : Imm16)
  | sltu (rd rs rt : Reg)
  | sra (rd rt : Reg) (sa : Shamt)
  | srav (rd rt rs : Reg)
  | srl (rd rt : Reg) (sa : Shamt)
  | srlv (rd rt rs : Reg)
  | sub (rd rs rt : Reg)
  | subu (rd rs rt : Reg)
  | sw (rt : Reg) (offset : Imm16) (rs : Reg)
  | swl (rt : Reg) (offset : Imm16) (rs : Reg)
  | swr (rt : Reg) (offset : Imm16) (rs : Reg)
  | syscall
  | xor (rd rs rt : Reg)
  | xori (rt rs : Reg) (imm : Imm16)
deriving DecidableEq, Repr

end Sys2Proof
end

