-- ==== Sys2Proof/WellFormed.lean ====
section
/-! DEFINITION. Which words are well formed. Every operand of an `Instr` is typed by its field's
width, so an ill-formed `Instr` cannot be written; what can be ill formed is a WORD: it is well
formed when it agrees with some row of the opcode table in every bit the row's mask covers
(30_encoding.md R49, R50, R51). The must-be-zero fields of R49 are part of the masks. -/

namespace Sys2Proof

/-- One row of spec/opcode_table.json: a word is the row's instruction when it agrees with `pattern`
in the bits that `mask` covers. -/
structure OpcodeRow where
  mnemonic : String
  pattern : Word
  mask : Word
deriving DecidableEq, Repr

/-- The row's match (R49, R51). -/
def OpcodeRow.selects (row : OpcodeRow) (w : Word) : Bool :=
  w &&& row.mask == row.pattern

/-- Rows of the opcode table, in its order (R46, R47, R48). -/
def opcodeRowsAddToJr : List OpcodeRow :=
  [
   ⟨"add", 0x00000020#32, 0xFC0007FF#32⟩,
   ⟨"addi", 0x20000000#32, 0xFC000000#32⟩,
   ⟨"addiu", 0x24000000#32, 0xFC000000#32⟩,
   ⟨"addu", 0x00000021#32, 0xFC0007FF#32⟩,
   ⟨"and", 0x00000024#32, 0xFC0007FF#32⟩,
   ⟨"andi", 0x30000000#32, 0xFC000000#32⟩,
   ⟨"beq", 0x10000000#32, 0xFC000000#32⟩,
   ⟨"bgez", 0x04010000#32, 0xFC1F0000#32⟩,
   ⟨"bgezal", 0x04110000#32, 0xFC1F0000#32⟩,
   ⟨"bgtz", 0x1C000000#32, 0xFC1F0000#32⟩,
   ⟨"blez", 0x18000000#32, 0xFC1F0000#32⟩,
   ⟨"bltzal", 0x04100000#32, 0xFC1F0000#32⟩,
   ⟨"bltz", 0x04000000#32, 0xFC1F0000#32⟩,
   ⟨"bne", 0x14000000#32, 0xFC000000#32⟩,
   ⟨"div", 0x0000001A#32, 0xFC00FFFF#32⟩,
   ⟨"divu", 0x0000001B#32, 0xFC00FFFF#32⟩,
   ⟨"j", 0x08000000#32, 0xFC000000#32⟩,
   ⟨"jal", 0x0C000000#32, 0xFC000000#32⟩,
   ⟨"jalr", 0x00000009#32, 0xFC1F07FF#32⟩,
   ⟨"jr", 0x00000008#32, 0xFC1FFFFF#32⟩]

/-- Rows of the opcode table, in its order (R46, R47, R48). -/
def opcodeRowsLbToSll : List OpcodeRow :=
  [
   ⟨"lb", 0x80000000#32, 0xFC000000#32⟩,
   ⟨"lbu", 0x90000000#32, 0xFC000000#32⟩,
   ⟨"lh", 0x84000000#32, 0xFC000000#32⟩,
   ⟨"lhu", 0x94000000#32, 0xFC000000#32⟩,
   ⟨"lui", 0x3C000000#32, 0xFFE00000#32⟩,
   ⟨"lw", 0x8C000000#32, 0xFC000000#32⟩,
   ⟨"lwl", 0x88000000#32, 0xFC000000#32⟩,
   ⟨"lwr", 0x98000000#32, 0xFC000000#32⟩,
   ⟨"mfhi", 0x00000010#32, 0xFFFF07FF#32⟩,
   ⟨"mflo", 0x00000012#32, 0xFFFF07FF#32⟩,
   ⟨"mthi", 0x00000011#32, 0xFC1FFFFF#32⟩,
   ⟨"mtlo", 0x00000013#32, 0xFC1FFFFF#32⟩,
   ⟨"mult", 0x00000018#32, 0xFC00FFFF#32⟩,
   ⟨"multu", 0x00000019#32, 0xFC00FFFF#32⟩,
   ⟨"nor", 0x00000027#32, 0xFC0007FF#32⟩,
   ⟨"or", 0x00000025#32, 0xFC0007FF#32⟩,
   ⟨"ori", 0x34000000#32, 0xFC000000#32⟩,
   ⟨"sb", 0xA0000000#32, 0xFC000000#32⟩,
   ⟨"sh", 0xA4000000#32, 0xFC000000#32⟩,
   ⟨"sll", 0x00000000#32, 0xFFE0003F#32⟩]

/-- Rows of the opcode table, in its order (R46, R47, R48). -/
def opcodeRowsSllvToXori : List OpcodeRow :=
  [
   ⟨"sllv", 0x00000004#32, 0xFC0007FF#32⟩,
   ⟨"slt", 0x0000002A#32, 0xFC0007FF#32⟩,
   ⟨"slti", 0x28000000#32, 0xFC000000#32⟩,
   ⟨"sltiu", 0x2C000000#32, 0xFC000000#32⟩,
   ⟨"sltu", 0x0000002B#32, 0xFC0007FF#32⟩,
   ⟨"sra", 0x00000003#32, 0xFFE0003F#32⟩,
   ⟨"srav", 0x00000007#32, 0xFC0007FF#32⟩,
   ⟨"srl", 0x00000002#32, 0xFFE0003F#32⟩,
   ⟨"srlv", 0x00000006#32, 0xFC0007FF#32⟩,
   ⟨"sub", 0x00000022#32, 0xFC0007FF#32⟩,
   ⟨"subu", 0x00000023#32, 0xFC0007FF#32⟩,
   ⟨"sw", 0xAC000000#32, 0xFC000000#32⟩,
   ⟨"swl", 0xA8000000#32, 0xFC000000#32⟩,
   ⟨"swr", 0xB8000000#32, 0xFC000000#32⟩,
   ⟨"syscall", 0x0000000C#32, 0xFFFFFFFF#32⟩,
   ⟨"xor", 0x00000026#32, 0xFC0007FF#32⟩,
   ⟨"xori", 0x38000000#32, 0xFC000000#32⟩]

/-- The opcode table: 57 rows (R46, R47, R48, R49). -/
def opcodeTable : List OpcodeRow :=
  opcodeRowsAddToJr ++ opcodeRowsLbToSll ++ opcodeRowsSllvToXori

/-- A word is well formed when some row selects it (R50). -/
def wellFormed (w : Word) : Bool :=
  opcodeTable.any (fun row => row.selects w)

end Sys2Proof
end

