-- ==== Sys2Proof/Decode.lean ====
section
/-! DEFINITION. The decoder, total on any bytes and rejecting by name, and after it the encoder
(30_encoding.md R40 to R51). The decoder follows the order of R51: bits 31:26 select a row of R46;
if they are 000000, bits 5:0 select a row of R47; if they are 000001, bits 20:16 select a row of
R48; then the must-be-zero fields of R49 are checked. 27 of the 57 encodings are the spec's own from
general knowledge (92_eei_decisions.md D27; log entry 10). -/

namespace Sys2Proof

/-! The fields of a word (R41 to R44). -/

/-- The Op-Code, bits 31:26. -/
def opField (w : Word) : BitVec 6 := w.extractLsb' 26 6

/-- `rs`, bits 25:21. -/
def rsField (w : Word) : Reg := w.extractLsb' 21 5

/-- `rt`, bits 20:16; in the branch-on-sign format the constant `code` (R44). -/
def rtField (w : Word) : Reg := w.extractLsb' 16 5

/-- `rd`, bits 15:11. -/
def rdField (w : Word) : Reg := w.extractLsb' 11 5

/-- `sa`, bits 10:6. -/
def saField (w : Word) : Shamt := w.extractLsb' 6 5

/-- The Function Code, bits 5:0. -/
def functField (w : Word) : BitVec 6 := w.extractLsb' 0 6

/-- `imm16`, bits 15:0. -/
def imm16Field (w : Word) : Imm16 := w.extractLsb' 0 16

/-- `imm26`, bits 25:0. -/
def imm26Field (w : Word) : Imm26 := w.extractLsb' 0 26

/-- Why a word, or a sequence of bytes, is no instruction. -/
inductive Reject where
  /-- Fewer than four bytes (R40). -/
  | tooShort
  /-- Bits 31:26 select no row of R46. -/
  | opcode
  /-- Op-Code 000000 and bits 5:0 select no row of R47. -/
  | funct
  /-- Op-Code 000001 and bits 20:16 select no row of R48. -/
  | code
  /-- A field that the selected row prints as zeros is not zero (R49). -/
  | zeroField
deriving DecidableEq, Repr

/-- An instruction whose unused fields must be zero (R49). -/
def ifZero (fieldsZero : Prop) [Decidable fieldsZero] (i : Instr) : Except Reject Instr :=
  if fieldsZero then .ok i else .error .zeroField

/-- The Op-Code 000000 group, by Function Code (R47). -/
def decodeSpecial (w : Word) : Except Reject Instr :=
  match functField w with
  | 0x00#6 => ifZero (rsField w = 0#5) (.sll (rdField w) (rtField w) (saField w))
  | 0x02#6 => ifZero (rsField w = 0#5) (.srl (rdField w) (rtField w) (saField w))
  | 0x03#6 => ifZero (rsField w = 0#5) (.sra (rdField w) (rtField w) (saField w))
  | 0x04#6 => ifZero (saField w = 0#5) (.sllv (rdField w) (rtField w) (rsField w))
  | 0x06#6 => ifZero (saField w = 0#5) (.srlv (rdField w) (rtField w) (rsField w))
  | 0x07#6 => ifZero (saField w = 0#5) (.srav (rdField w) (rtField w) (rsField w))
  | 0x08#6 => ifZero (rtField w = 0#5 ∧ rdField w = 0#5 ∧ saField w = 0#5) (.jr (rsField w))
  | 0x09#6 => ifZero (rtField w = 0#5 ∧ saField w = 0#5) (.jalr (rdField w) (rsField w))
  | 0x0C#6 => ifZero (rsField w = 0#5 ∧ rtField w = 0#5 ∧ rdField w = 0#5 ∧ saField w = 0#5) .syscall
  | 0x10#6 => ifZero (rsField w = 0#5 ∧ rtField w = 0#5 ∧ saField w = 0#5) (.mfhi (rdField w))
  | 0x11#6 => ifZero (rtField w = 0#5 ∧ rdField w = 0#5 ∧ saField w = 0#5) (.mthi (rsField w))
  | 0x12#6 => ifZero (rsField w = 0#5 ∧ rtField w = 0#5 ∧ saField w = 0#5) (.mflo (rdField w))
  | 0x13#6 => ifZero (rtField w = 0#5 ∧ rdField w = 0#5 ∧ saField w = 0#5) (.mtlo (rsField w))
  | 0x18#6 => ifZero (rdField w = 0#5 ∧ saField w = 0#5) (.mult (rsField w) (rtField w))
  | 0x19#6 => ifZero (rdField w = 0#5 ∧ saField w = 0#5) (.multu (rsField w) (rtField w))
  | 0x1A#6 => ifZero (rdField w = 0#5 ∧ saField w = 0#5) (.div (rsField w) (rtField w))
  | 0x1B#6 => ifZero (rdField w = 0#5 ∧ saField w = 0#5) (.divu (rsField w) (rtField w))
  | 0x20#6 => ifZero (saField w = 0#5) (.add (rdField w) (rsField w) (rtField w))
  | 0x21#6 => ifZero (saField w = 0#5) (.addu (rdField w) (rsField w) (rtField w))
  | 0x22#6 => ifZero (saField w = 0#5) (.sub (rdField w) (rsField w) (rtField w))
  | 0x23#6 => ifZero (saField w = 0#5) (.subu (rdField w) (rsField w) (rtField w))
  | 0x24#6 => ifZero (saField w = 0#5) (.and (rdField w) (rsField w) (rtField w))
  | 0x25#6 => ifZero (saField w = 0#5) (.or (rdField w) (rsField w) (rtField w))
  | 0x26#6 => ifZero (saField w = 0#5) (.xor (rdField w) (rsField w) (rtField w))
  | 0x27#6 => ifZero (saField w = 0#5) (.nor (rdField w) (rsField w) (rtField w))
  | 0x2A#6 => ifZero (saField w = 0#5) (.slt (rdField w) (rsField w) (rtField w))
  | 0x2B#6 => ifZero (saField w = 0#5) (.sltu (rdField w) (rsField w) (rtField w))
  | _ => .error .funct

/-- The Op-Code 000001 group, by `code` (R48). -/
def decodeBranchOnSign (w : Word) : Except Reject Instr :=
  match rtField w with
  | 0x00#5 => .ok (.bltz (rsField w) (imm16Field w))
  | 0x01#5 => .ok (.bgez (rsField w) (imm16Field w))
  | 0x10#5 => .ok (.bltzal (rsField w) (imm16Field w))
  | 0x11#5 => .ok (.bgezal (rsField w) (imm16Field w))
  | _ => .error .code

/-- The instruction a word stands for (R46, R51). -/
def decode (w : Word) : Except Reject Instr :=
  match opField w with
  | 0x00#6 => decodeSpecial w
  | 0x01#6 => decodeBranchOnSign w
  | 0x02#6 => .ok (.j (imm26Field w))
  | 0x03#6 => .ok (.jal (imm26Field w))
  | 0x04#6 => .ok (.beq (rsField w) (rtField w) (imm16Field w))
  | 0x05#6 => .ok (.bne (rsField w) (rtField w) (imm16Field w))
  | 0x06#6 => ifZero (rtField w = 0#5) (.blez (rsField w) (imm16Field w))
  | 0x07#6 => ifZero (rtField w = 0#5) (.bgtz (rsField w) (imm16Field w))
  | 0x08#6 => .ok (.addi (rtField w) (rsField w) (imm16Field w))
  | 0x09#6 => .ok (.addiu (rtField w) (rsField w) (imm16Field w))
  | 0x0A#6 => .ok (.slti (rtField w) (rsField w) (imm16Field w))
  | 0x0B#6 => .ok (.sltiu (rtField w) (rsField w) (imm16Field w))
  | 0x0C#6 => .ok (.andi (rtField w) (rsField w) (imm16Field w))
  | 0x0D#6 => .ok (.ori (rtField w) (rsField w) (imm16Field w))
  | 0x0E#6 => .ok (.xori (rtField w) (rsField w) (imm16Field w))
  | 0x0F#6 => ifZero (rsField w = 0#5) (.lui (rtField w) (imm16Field w))
  | 0x20#6 => .ok (.lb (rtField w) (imm16Field w) (rsField w))
  | 0x21#6 => .ok (.lh (rtField w) (imm16Field w) (rsField w))
  | 0x22#6 => .ok (.lwl (rtField w) (imm16Field w) (rsField w))
  | 0x23#6 => .ok (.lw (rtField w) (imm16Field w) (rsField w))
  | 0x24#6 => .ok (.lbu (rtField w) (imm16Field w) (rsField w))
  | 0x25#6 => .ok (.lhu (rtField w) (imm16Field w) (rsField w))
  | 0x26#6 => .ok (.lwr (rtField w) (imm16Field w) (rsField w))
  | 0x28#6 => .ok (.sb (rtField w) (imm16Field w) (rsField w))
  | 0x29#6 => .ok (.sh (rtField w) (imm16Field w) (rsField w))
  | 0x2A#6 => .ok (.swl (rtField w) (imm16Field w) (rsField w))
  | 0x2B#6 => .ok (.sw (rtField w) (imm16Field w) (rsField w))
  | 0x2E#6 => .ok (.swr (rtField w) (imm16Field w) (rsField w))
  | _ => .error .opcode

/-! Words as bytes (20_memory.md R25, R27). -/

/-- The four bytes of a word, lowest address first. -/
def wordBytes (e : Endian) (w : Word) : List Byte :=
  let low := [w.extractLsb' 0 8, w.extractLsb' 8 8, w.extractLsb' 16 8, w.extractLsb' 24 8]
  match e with
  | .little => low
  | .big => low.reverse

/-- The word that four bytes make, the first at the lowest address. -/
def bytesWord (e : Endian) (b0 b1 b2 b3 : Byte) : Word :=
  match e with
  | .little => b3 ++ b2 ++ b1 ++ b0
  | .big => b0 ++ b1 ++ b2 ++ b3

/-- The instruction at the head of a sequence of bytes, and the bytes after it (R40, R51). -/
def decodeBytes (e : Endian) : List Byte → Except Reject (Instr × List Byte)
  | b0 :: b1 :: b2 :: b3 :: rest =>
    match decode (bytesWord e b0 b1 b2 b3) with
    | .ok i => .ok (i, rest)
    | .error r => .error r
  | _ => .error .tooShort

/-- What the decoder reads from an instruction whose bits are `w`, the bits from `nbits` on being 0;
the host's question about one row of the opcode table. -/
def decodeTableWord (nbits w : Nat) : Option Instr :=
  match decodeBytes .little (wordBytes .little (BitVec.ofNat 32 (w % 2 ^ nbits))) with
  | .ok (i, _) => some i
  | .error _ => none

/-! The encoder (R41 to R44, R46 to R49). -/

/-- The register format (R41): Op-Code 000000. -/
def rWord (rs rt rd : Reg) (sa : Shamt) (funct : BitVec 6) : Word :=
  0x00#6 ++ rs ++ rt ++ rd ++ sa ++ funct

/-- The immediate format (R42), and the branch-on-sign format with `code` in place of `rt` (R44). -/
def iWord (op : BitVec 6) (rs rt : Reg) (imm : Imm16) : Word :=
  op ++ rs ++ rt ++ imm

/-- The jump format (R43). -/
def jWord (op : BitVec 6) (imm : Imm26) : Word :=
  op ++ imm

/-- The word of an instruction; unused fields are zero (R49). -/
def encode : Instr → Word
  | .add rd rs rt => rWord rs rt rd 0#5 0x20#6
  | .addi rt rs imm => iWord 0x08#6 rs rt imm
  | .addiu rt rs imm => iWord 0x09#6 rs rt imm
  | .addu rd rs rt => rWord rs rt rd 0#5 0x21#6
  | .and rd rs rt => rWord rs rt rd 0#5 0x24#6
  | .andi rt rs imm => iWord 0x0C#6 rs rt imm
  | .beq rs rt imm => iWord 0x04#6 rs rt imm
  | .bgez rs imm => iWord 0x01#6 rs 0x01#5 imm
  | .bgezal rs imm => iWord 0x01#6 rs 0x11#5 imm
  | .bgtz rs imm => iWord 0x07#6 rs 0#5 imm
  | .blez rs imm => iWord 0x06#6 rs 0#5 imm
  | .bltzal rs imm => iWord 0x01#6 rs 0x10#5 imm
  | .bltz rs imm => iWord 0x01#6 rs 0x00#5 imm
  | .bne rs rt imm => iWord 0x05#6 rs rt imm
  | .div rs rt => rWord rs rt 0#5 0#5 0x1A#6
  | .divu rs rt => rWord rs rt 0#5 0#5 0x1B#6
  | .j imm => jWord 0x02#6 imm
  | .jal imm => jWord 0x03#6 imm
  | .jalr rd rs => rWord rs 0#5 rd 0#5 0x09#6
  | .jr rs => rWord rs 0#5 0#5 0#5 0x08#6
  | .lb rt offset rs => iWord 0x20#6 rs rt offset
  | .lbu rt offset rs => iWord 0x24#6 rs rt offset
  | .lh rt offset rs => iWord 0x21#6 rs rt offset
  | .lhu rt offset rs => iWord 0x25#6 rs rt offset
  | .lui rt imm => iWord 0x0F#6 0#5 rt imm
  | .lw rt offset rs => iWord 0x23#6 rs rt offset
  | .lwl rt offset rs => iWord 0x22#6 rs rt offset
  | .lwr rt offset rs => iWord 0x26#6 rs rt offset
  | .mfhi rd => rWord 0#5 0#5 rd 0#5 0x10#6
  | .mflo rd => rWord 0#5 0#5 rd 0#5 0x12#6
  | .mthi rs => rWord rs 0#5 0#5 0#5 0x11#6
  | .mtlo rs => rWord rs 0#5 0#5 0#5 0x13#6
  | .mult rs rt => rWord rs rt 0#5 0#5 0x18#6
  | .multu rs rt => rWord rs rt 0#5 0#5 0x19#6
  | .nor rd rs rt => rWord rs rt rd 0#5 0x27#6
  | .or rd rs rt => rWord rs rt rd 0#5 0x25#6
  | .ori rt rs imm => iWord 0x0D#6 rs rt imm
  | .sb rt offset rs => iWord 0x28#6 rs rt offset
  | .sh rt offset rs => iWord 0x29#6 rs rt offset
  | .sll rd rt sa => rWord 0#5 rt rd sa 0x00#6
  | .sllv rd rt rs => rWord rs rt rd 0#5 0x04#6
  | .slt rd rs rt => rWord rs rt rd 0#5 0x2A#6
  | .slti rt rs imm => iWord 0x0A#6 rs rt imm
  | .sltiu rt rs imm => iWord 0x0B#6 rs rt imm
  | .sltu rd rs rt => rWord rs rt rd 0#5 0x2B#6
  | .sra rd rt sa => rWord 0#5 rt rd sa 0x03#6
  | .srav rd rt rs => rWord rs rt rd 0#5 0x07#6
  | .srl rd rt sa => rWord 0#5 rt rd sa 0x02#6
  | .srlv rd rt rs => rWord rs rt rd 0#5 0x06#6
  | .sub rd rs rt => rWord rs rt rd 0#5 0x22#6
  | .subu rd rs rt => rWord rs rt rd 0#5 0x23#6
  | .sw rt offset rs => iWord 0x2B#6 rs rt offset
  | .swl rt offset rs => iWord 0x2A#6 rs rt offset
  | .swr rt offset rs => iWord 0x2E#6 rs rt offset
  | .syscall => rWord 0#5 0#5 0#5 0#5 0x0C#6
  | .xor rd rs rt => rWord rs rt rd 0#5 0x26#6
  | .xori rt rs imm => iWord 0x0E#6 rs rt imm

/-- The bytes of an instruction, lowest address first. -/
def encodeBytes (e : Endian) (i : Instr) : List Byte :=
  wordBytes e (encode i)

/-- The mnemonic of an instruction, as the opcode table spells it. -/
def Instr.mnemonic : Instr → String
  | .add .. => "add"
  | .addi .. => "addi"
  | .addiu .. => "addiu"
  | .addu .. => "addu"
  | .and .. => "and"
  | .andi .. => "andi"
  | .beq .. => "beq"
  | .bgez .. => "bgez"
  | .bgezal .. => "bgezal"
  | .bgtz .. => "bgtz"
  | .blez .. => "blez"
  | .bltzal .. => "bltzal"
  | .bltz .. => "bltz"
  | .bne .. => "bne"
  | .div .. => "div"
  | .divu .. => "divu"
  | .j .. => "j"
  | .jal .. => "jal"
  | .jalr .. => "jalr"
  | .jr .. => "jr"
  | .lb .. => "lb"
  | .lbu .. => "lbu"
  | .lh .. => "lh"
  | .lhu .. => "lhu"
  | .lui .. => "lui"
  | .lw .. => "lw"
  | .lwl .. => "lwl"
  | .lwr .. => "lwr"
  | .mfhi .. => "mfhi"
  | .mflo .. => "mflo"
  | .mthi .. => "mthi"
  | .mtlo .. => "mtlo"
  | .mult .. => "mult"
  | .multu .. => "multu"
  | .nor .. => "nor"
  | .or .. => "or"
  | .ori .. => "ori"
  | .sb .. => "sb"
  | .sh .. => "sh"
  | .sll .. => "sll"
  | .sllv .. => "sllv"
  | .slt .. => "slt"
  | .slti .. => "slti"
  | .sltiu .. => "sltiu"
  | .sltu .. => "sltu"
  | .sra .. => "sra"
  | .srav .. => "srav"
  | .srl .. => "srl"
  | .srlv .. => "srlv"
  | .sub .. => "sub"
  | .subu .. => "subu"
  | .sw .. => "sw"
  | .swl .. => "swl"
  | .swr .. => "swr"
  | .syscall => "syscall"
  | .xor .. => "xor"
  | .xori .. => "xori"

end Sys2Proof
end

