-- ==== Sys2Proof/Machine/State.lean ====
section
/-! DEFINITION. The state of the machine, as plain data, and what can stop a step. The whole
architectural state is 32 general registers, PC, HIGH, LOW and memory (10_state.md); `platform`
carries the spec's open parameters, which no step changes. -/

namespace Sys2Proof.Machine

/-- Memory: (address, byte) pairs, in the canonical form that `Memory.wf` (Machine/Memory.lean)
says. An address that is not listed reads as `Config.unlistedByte` (10_state.md R19, R21). -/
abbrev Memory := List Host.Cell

/-- The state (10_state.md R10 to R21). -/
structure State where
  /-- The address of the instruction being executed (R13). -/
  pc : Word
  /-- `x[1]` to `x[31]`: slot `i - 1` holds `x[i]` (R10). `x[0]` is not stored (R11). -/
  regs : Vector Word 31
  /-- The special register HIGH (R16). -/
  hi : Word
  /-- The special register LOW (R16). -/
  lo : Word
  /-- The one address space of 2^32 bytes (R19). -/
  mem : Memory
  /-- The open parameters of 00_scope.md R4 that are plain data. The model's own field. -/
  platform : Platform
deriving DecidableEq, Repr

/-- The machine right after reset (10_state.md R21, 70_reset_and_hazards.md R150): `pc = RESET_PC`;
`x[1]` to `x[31]`, HI and LO are unspecified there, so they hold the value the assumption log names
(DESIGN CHOICE, log entries 5, 6, 7); nothing is placed in memory (log entry 8); the parameters are
at the spec's defaults. -/
def State.reset : State :=
  { pc := Config.resetPc
    regs := Vector.replicate 31 0x00000000#32
    hi := 0x00000000#32
    lo := 0x00000000#32
    mem := []
    platform := Config.platform }

/-- The synchronous exceptions (60_exceptions.md R132), with the information each records besides
the address of the instruction that raised it. -/
inductive Exception where
  /-- Signed overflow of `add`, `addi`, `sub` (R136). -/
  | overflow
  /-- A misaligned or not admitted access (R133, 20_memory.md R31). -/
  | addressError (kind : AccessKind) (addr : Word)
  /-- The system call (R134). -/
  | syscall
  /-- A fetched word that is no instruction (R135). -/
  | reservedInstruction (word : Word)
deriving DecidableEq, Repr

/-- The trap outcome (60_exceptions.md R132, R141) that ends a run when the environment is
`terminal`. Every constructor is the outcome the spec itself describes, so each is safe: nothing
after it can be proved. `epc` is the address of the instruction that raised. -/
inductive Fault where
  /-- `Trap(Overflow, epc)`: raised by `add`, `addi`, `sub`. Safe. -/
  | overflow (epc : Word)
  /-- `Trap(AddressError, epc, kind, addr)`: raised by loads, stores and by the fetch of any step.
  Safe. -/
  | addressError (epc : Word) (kind : AccessKind) (addr : Word)
  /-- `Trap(Syscall, epc)`: raised by `syscall`; the normal end of a run (R141, R152). Safe. -/
  | syscall (epc : Word)
  /-- `Trap(ReservedInstruction, epc, word)`: raised by the decode of any step. Safe. -/
  | reservedInstruction (epc : Word) (word : Word)
deriving DecidableEq, Repr

/-- Why the model gives a step no meaning. -/
inductive Refusal where
  /-- Raised by `exec` for an instruction without a meaning; no arm does. Safe. -/
  | notModelled (mnemonic : String)
deriving DecidableEq, Repr

end Sys2Proof.Machine
end

