-- ==== Sys2Proof/Machine/Environment.lean ====
section
/-! DEFINITION. The open parameter `Environment` (00_scope.md R4, 60_exceptions.md R143): "a function
from (E, epc, info, state) to a new state from which stepping resumes". Which function is an
argument of the model and not specified (45_system.md R131): it is an uninterpreted constant. -/

namespace Sys2Proof.Machine

/-- A trap: the exception with what it records, and the address of the instruction that raised it
(60_exceptions.md R132, R141). -/
structure Trap where
  exception : Exception
  epc : Word
deriving DecidableEq, Repr

/-- What an environment leaves behind: where stepping resumes, the registers, HI and LO, and the
bytes it stored, in order. It cannot give register 0 another value (10_state.md R11) nor change the
platform's parameters, which are fixed for a run. -/
structure Resumption where
  pc : Word
  regs : Vector Word 31
  hi : Word
  lo : Word
  stores : List (Word × Byte)
deriving DecidableEq, Repr, Inhabited

end Sys2Proof.Machine

namespace Sys2Proof

/-- The non-default environment (R143). A free value: nothing constrains it (log entry 4). -/
opaque Config.environment : Machine.Trap → Machine.State → Machine.Resumption

end Sys2Proof
end

