-- ==== Sys2Proof/Machine/Ops.lean ====
section
/-! DEFINITION. The named operations over registers, the program counter and memory (00_scope.md R7),
taking an exception, and the return from one. The meanings of the instructions are written over
these. -/

namespace Sys2Proof.Machine

/-- What one step, or one instruction, answers. -/
abbrev Result := Host.Outcome State Fault Refusal

/-! Registers (10_state.md R10, R11). -/

/-- `x[r]`: register 0 reads as zero (R11). -/
def State.reg (s : State) (r : Reg) : Word :=
  if r = 0#5 then 0x00000000#32 else s.regs[r.toNat - 1]'(by have := r.isLt; omega)

/-- `x[r] <- v`: a write to register 0 is discarded (R11). -/
def State.setReg (s : State) (r : Reg) (v : Word) : State :=
  if r = 0#5 then s
  else { s with regs := s.regs.set (r.toNat - 1) v (by have := r.isLt; omega) }

/-- The number of `$ra` (10_state.md R12). PRESUMED by the spec (log entry 11). -/
def linkRegister : Reg := 31#5

/-- `HI <- v` (10_state.md R16). -/
def State.setHi (s : State) (v : Word) : State := { s with hi := v }

/-- `LO <- v` (10_state.md R16). -/
def State.setLo (s : State) (v : Word) : State := { s with lo := v }

/-! The program counter (10_state.md R13, R14). -/

/-- `npc = trunc32(pc + 4)`, what the source calls `PC` (R13). -/
def State.npc (s : State) : Word := s.pc + 4#32

/-- `pc <- t`. -/
def State.goto (s : State) (t : Word) : State := { s with pc := t }

/-- `pc <- npc`, implied where an instruction does not assign `pc` (R14). -/
def State.advance (s : State) : State := s.goto s.npc

/-! Memory (20_memory.md R23 to R29). -/

/-- `Mem[a]`. -/
def State.byteAt (s : State) (a : Word) : Byte := s.mem.read a.toNat

/-- The halfword that two bytes make, the first at the lower address (R25). -/
def bytesHalf (e : Endian) (b0 b1 : Byte) : Half :=
  match e with
  | .little => b1 ++ b0
  | .big => b0 ++ b1

/-- The two bytes of a halfword, lower address first (R25). -/
def halfBytes (e : Endian) (h : Half) : List Byte :=
  match e with
  | .little => [h.extractLsb' 0 8, h.extractLsb' 8 8]
  | .big => [h.extractLsb' 8 8, h.extractLsb' 0 8]

/-- `MemRead(a, 2)` (R25). -/
def State.readHalf (s : State) (a : Word) : Half :=
  bytesHalf s.platform.endian (s.byteAt a) (s.byteAt (a + 1#32))

/-- `MemRead(a, 4)` (R25). -/
def State.readWord (s : State) (a : Word) : Word :=
  bytesWord s.platform.endian (s.byteAt a) (s.byteAt (a + 1#32)) (s.byteAt (a + 2#32))
    (s.byteAt (a + 3#32))

/-- One byte stored: `MemWrite(a, 1, v)` (R25). -/
def State.writeByte (s : State) (a : Word) (v : Byte) : State :=
  { s with mem := s.mem.write a.toNat v }

/-- Bytes stored one after another, at rising addresses. -/
def State.writeBytes (s : State) (a : Word) : List Byte → State
  | [] => s
  | b :: rest => State.writeBytes (s.writeByte a b) (a + 1#32) rest

/-- `MemWrite(a, 2, v)` (R25). -/
def State.writeHalf (s : State) (a : Word) (v : Half) : State :=
  s.writeBytes a (halfBytes s.platform.endian v)

/-- `MemWrite(a, 4, v)` (R25). -/
def State.writeWord (s : State) (a : Word) (v : Word) : State :=
  s.writeBytes a (wordBytes s.platform.endian v)

/-- Bytes stored each at its own address, in order. -/
def State.writeCells (s : State) : List (Word × Byte) → State
  | [] => s
  | c :: rest => State.writeCells (s.writeByte c.1 c.2) rest

/-- `Admitted(kind, a, n)` (20_memory.md R31): no row of the platform denies it. -/
def State.admitted (s : State) (kind : AccessKind) (a : Word) (n : Nat) : Bool :=
  !s.platform.denied.any
    (fun d => d.kind == kind && d.size == n && d.first ≤ a.toNat && a.toNat ≤ d.last)

/-! Exceptions (60_exceptions.md). -/

/-- `Trap(E, epc, info)` as the outcome of a step (R141). -/
def Exception.fault (e : Exception) (epc : Word) : Fault :=
  match e with
  | .overflow => .overflow epc
  | .addressError kind addr => .addressError epc kind addr
  | .syscall => .syscall epc
  | .reservedInstruction w => .reservedInstruction epc w

/-- Where stepping resumes after a trap (R143): after `syscall` at `epc + 4`, "the only resumption
this spec describes"; otherwise where the environment says. -/
def Trap.resumePc (t : Trap) (r : Resumption) : Word :=
  match t.exception with
  | .syscall => t.epc + 4#32
  | .overflow | .addressError _ _ | .reservedInstruction _ => r.pc

/-- The return from a trap: the state a resuming environment gives (R143, 45_system.md R131). There
is no return instruction; the platform's parameters stay as they are. -/
def State.resume (s : State) (t : Trap) : State :=
  let r := Config.environment t s
  { (s.writeCells r.stores) with
    pc := t.resumePc r, regs := r.regs, hi := r.hi, lo := r.lo }

/-- Taking an exception (R141): no register, HI, LO or memory byte changes, `pc` stays at the
instruction that raised, and the outcome is `Trap(E, epc = pc, info)`, after which there is no
further step. With a resuming environment the trapped state is handed to it, and its answer is the
next state (R143). -/
def State.raise (s : State) (e : Exception) : Result :=
  match s.platform.environment with
  | .terminal => .fault (e.fault s.pc)
  | .resuming => .next (s.resume { exception := e, epc := s.pc })

/-! Loads and stores (44_load_store.md R113, R114; 20_memory.md R26, R39). -/

/-- An access of `n` bytes at `a`: alignment is checked first, then admission; if either fails the
access raises and nothing else happens (R39). -/
def State.access (s : State) (kind : AccessKind) (a : Word) (n : Nat) (done : State) : Result :=
  if a.toNat % n ≠ 0 then s.raise (.addressError kind a)
  else if s.admitted kind a n then .next done
  else s.raise (.addressError kind a)

/-- Single-byte accesses at several addresses, made for the effective address `ea` (R120, R125:
"admission is checked for the bytes read", "written"); there is no alignment to check. DESIGN CHOICE
(log entry 3): each byte is an access of size 1, and the address reported is `ea`. -/
def State.accessBytes (s : State) (kind : AccessKind) (ea : Word) (addrs : List Word)
    (done : State) : Result :=
  if addrs.all (fun a => s.admitted kind a 1) then .next done
  else s.raise (.addressError kind ea)

end Sys2Proof.Machine
end

