-- ==== Sys2Proof/Machine/Operands.lean ====
section
/-! DEFINITION. Every operand form the spec gives: immediates (30_encoding.md R45), shift counts and
shifts (41_shift.md R80), the effective address (44_load_store.md R113), branch and jump targets
(43_branch_jump.md R97, R98), and the bytes of the partial-word instructions (44_load_store.md
R127). -/

namespace Sys2Proof.Machine

/-- `trunc32(n)` (00_scope.md R6): the low 32 bits of an integer. -/
def trunc32 (n : Int) : Word := BitVec.ofInt 32 n

/-- `u(v)` as an integer (00_scope.md R6). -/
def uval (v : Word) : Int := (v.toNat : Int)

/-- `s(v)`: the two's complement reading (00_scope.md R6). -/
def sval (v : Word) : Int := v.toInt

/-- `sext_32` of an immediate or a halfword (R6, R45). -/
def sext16 (h : BitVec 16) : Word := h.signExtend 32

/-- `zext_32` of an immediate or a halfword (R6, R45). -/
def zext16 (h : BitVec 16) : Word := h.zeroExtend 32

/-- `sext_32` of a byte (R6). -/
def sext8 (b : Byte) : Word := b.signExtend 32

/-- `zext_32` of a byte (R6). -/
def zext8 (b : Byte) : Word := b.zeroExtend 32

/-- The operand of `lui`: `imm16 : 0x0000` (R45). -/
def upperImmediate (imm : Imm16) : Word := imm ++ 0x0000#16

/-- The count of a fixed shift: `sa`, unsigned (R45, R80). -/
def fixedCount (sa : Shamt) : Nat := sa.toNat

/-- The count of a variable shift: `u(x[rs][4:0])` (R80). -/
def variableCount (v : Word) : Nat := (v.extractLsb' 0 5).toNat

/-- `shl(v, n)` (R80): bits are lost at the top, zeros enter at the bottom. -/
def shl (v : Word) (n : Nat) : Word := v <<< n

/-- `shrl(v, n)` (R80): "inserting zeros into the high order bits". -/
def shrl (v : Word) (n : Nat) : Word := v >>> n

/-- `shra(v, n)` (R80): "sign-extending the high order bits". -/
def shra (v : Word) (n : Nat) : Word := v.sshiftRight n

/-- The effective address `EA = trunc32(u(x[rs]) + s(sext_32(imm16)))` (R113): it wraps. -/
def State.effectiveAddress (s : State) (rs : Reg) (offset : Imm16) : Word :=
  trunc32 (uval (s.reg rs) + sval (sext16 offset))

/-- `BranchTarget = trunc32(npc + s(sext_32(imm16)) * 4)` (R97): the base is `npc`, the offset
counts words. -/
def State.branchTarget (s : State) (imm : Imm16) : Word :=
  trunc32 (uval s.npc + sval (sext16 imm) * 4)

/-- `JumpTarget = npc[31:28] : imm26 : 00` (R98). -/
def State.jumpTarget (s : State) (imm : Imm26) : Word :=
  s.npc.extractLsb' 28 4 ++ imm ++ 0b00#2

/-! The bytes of the aligned word that holds the byte at `EA` (R127). -/

/-- `A`: `EA` with bits 1:0 cleared. -/
def alignedWord (ea : Word) : Word := ea.extractLsb' 2 30 ++ 0b00#2

/-- `k`, the significance of the byte at `EA` in its aligned word: that byte is `m_k`. -/
def significance (e : Endian) (ea : Word) : Nat :=
  match e with
  | .little => (ea.extractLsb' 0 2).toNat
  | .big => 3 - (ea.extractLsb' 0 2).toNat

/-- The address of `m_j` in the aligned word at `a`: `a + j` with little, `a + 3 - j` with big. -/
def significantByte (e : Endian) (a : Word) (j : Nat) : Word :=
  match e with
  | .little => a + BitVec.ofNat 32 j
  | .big => a + BitVec.ofNat 32 (3 - j)

/-- The addresses of `m_0` to `m_k`: the bytes of `lwl` and `swl` (R120, R125). -/
def leftBytes (e : Endian) (ea : Word) : List Word :=
  (List.range (significance e ea + 1)).map (significantByte e (alignedWord ea))

/-- The addresses of `m_k` to `m_3`: the bytes of `lwr` and `swr` (R121, R126). -/
def rightBytes (e : Endian) (ea : Word) : List Word :=
  (List.range (4 - significance e ea)).map
    (fun i => significantByte e (alignedWord ea) (significance e ea + i))

/-- `r_j`: byte `j` of a register's value (R127). -/
def registerByte (v : Word) (j : Nat) : Byte := v.extractLsb' (8 * j) 8

/-- What `lwl` leaves in a register that held `r`, from the aligned word `w` (R120):
`(W << 8*(3-k)) OR (R AND (2^(8*(3-k)) - 1))`. -/
def mergeLeft (w r : Word) (k : Nat) : Word :=
  (w <<< (8 * (3 - k))) ||| (r &&& BitVec.ofNat 32 (2 ^ (8 * (3 - k)) - 1))

/-- What `lwr` leaves in a register that held `r`, from the aligned word `w` (R121):
`(W >> 8*k) OR (R AND NOT (0xFFFFFFFF >> 8*k))`. -/
def mergeRight (w r : Word) (k : Nat) : Word :=
  (w >>> (8 * k)) ||| (r &&& ~~~(0xFFFFFFFF#32 >>> (8 * k)))

/-- The bytes `swl` stores (R125): `m_j <- r_(3-k+j)` for `j = 0..k`. -/
def leftCells (e : Endian) (ea : Word) (r : Word) : List (Word × Byte) :=
  (List.range (significance e ea + 1)).map
    (fun j => (significantByte e (alignedWord ea) j,
      registerByte r (3 - significance e ea + j)))

/-- The bytes `swr` stores (R126): `m_(k+i) <- r_i` for `i = 0..3-k`. -/
def rightCells (e : Endian) (ea : Word) (r : Word) : List (Word × Byte) :=
  (List.range (4 - significance e ea)).map
    (fun i => (significantByte e (alignedWord ea) (significance e ea + i), registerByte r i))

end Sys2Proof.Machine
end

