-- ==== Sys2Proof/Machine/Flags.lean ====
section
/-! DEFINITION. The conditions the instructions compute. There are no status flags, condition codes
or predicate registers (10_state.md R17): a comparison writes 1 or 0 into a general register, a
branch compares registers directly, and signed overflow is reported by an exception. -/

namespace Sys2Proof.Machine

/-- An integer outside the two's complement range, -2^31 to 2^31 - 1 (40_arith_logic.md R79). -/
def overflows (n : Int) : Bool := decide (n < -(2 ^ 31) ∨ n > 2 ^ 31 - 1)

/-- `if c then 0x00000001 else 0x00000000` (R71 to R74). -/
def truthWord (c : Bool) : Word := if c then 0x00000001#32 else 0x00000000#32

/-- `s(a) < s(b)` (R79). -/
def signedLess (a b : Word) : Bool := decide (sval a < sval b)

/-- `u(a) < u(b)` (R79). -/
def unsignedLess (a b : Word) : Bool := decide (uval a < uval b)

/-- `s(a) >= 0` (43_branch_jump.md R101). -/
def geZero (a : Word) : Bool := decide (sval a ≥ 0)

/-- `s(a) > 0` (R103). -/
def gtZero (a : Word) : Bool := decide (sval a > 0)

/-- `s(a) <= 0` (R104). -/
def leZero (a : Word) : Bool := decide (sval a ≤ 0)

/-- `s(a) < 0` (R106). -/
def ltZero (a : Word) : Bool := decide (sval a < 0)

end Sys2Proof.Machine
end

