-- ==== Sys2Proof/Machine/ArithLogic.lean ====
section
/-! DEFINITION. Add, subtract, logical, set-on-less-than and load-upper-immediate instructions
(40_arith_logic.md R60 to R79). -/

namespace Sys2Proof.Machine

/-- The result goes to one general register and `pc` advances (R60). -/
def State.result (s : State) (rd : Reg) (v : Word) : Result :=
  .next ((s.setReg rd v).advance)

/-- A signed sum or difference: an overflow raises before anything is written (R60, R79, R136),
also when the destination is register 0 (10_state.md R11). -/
def State.signedResult (s : State) (rd : Reg) (n : Int) : Result :=
  if overflows n then s.raise .overflow else s.result rd (trunc32 n)

/-- R61. -/
def execAdd (rd rs rt : Reg) (s : State) : Result :=
  s.signedResult rd (sval (s.reg rs) + sval (s.reg rt))

/-- R62. -/
def execAddi (rt rs : Reg) (imm : Imm16) (s : State) : Result :=
  s.signedResult rt (sval (s.reg rs) + sval (sext16 imm))

/-- R63: the immediate is sign extended despite the name. -/
def execAddiu (rt rs : Reg) (imm : Imm16) (s : State) : Result :=
  s.result rt (trunc32 (uval (s.reg rs) + sval (sext16 imm)))

/-- R64. -/
def execAddu (rd rs rt : Reg) (s : State) : Result :=
  s.result rd (trunc32 (uval (s.reg rs) + uval (s.reg rt)))

/-- R65. -/
def execAnd (rd rs rt : Reg) (s : State) : Result :=
  s.result rd (s.reg rs &&& s.reg rt)

/-- R66. -/
def execAndi (rt rs : Reg) (imm : Imm16) (s : State) : Result :=
  s.result rt (s.reg rs &&& zext16 imm)

/-- R67. -/
def execLui (rt : Reg) (imm : Imm16) (s : State) : Result :=
  s.result rt (upperImmediate imm)

/-- R68. -/
def execNor (rd rs rt : Reg) (s : State) : Result :=
  s.result rd (~~~(s.reg rs ||| s.reg rt))

/-- R69. -/
def execOr (rd rs rt : Reg) (s : State) : Result :=
  s.result rd (s.reg rs ||| s.reg rt)

/-- R70. -/
def execOri (rt rs : Reg) (imm : Imm16) (s : State) : Result :=
  s.result rt (s.reg rs ||| zext16 imm)

/-- R71. -/
def execSlt (rd rs rt : Reg) (s : State) : Result :=
  s.result rd (truthWord (signedLess (s.reg rs) (s.reg rt)))

/-- R72. -/
def execSlti (rt rs : Reg) (imm : Imm16) (s : State) : Result :=
  s.result rt (truthWord (signedLess (s.reg rs) (sext16 imm)))

/-- R73: the immediate is sign extended, then both patterns are compared unsigned. -/
def execSltiu (rt rs : Reg) (imm : Imm16) (s : State) : Result :=
  s.result rt (truthWord (unsignedLess (s.reg rs) (sext16 imm)))

/-- R74. -/
def execSltu (rd rs rt : Reg) (s : State) : Result :=
  s.result rd (truthWord (unsignedLess (s.reg rs) (s.reg rt)))

/-- R75. -/
def execSub (rd rs rt : Reg) (s : State) : Result :=
  s.signedResult rd (sval (s.reg rs) - sval (s.reg rt))

/-- R76. -/
def execSubu (rd rs rt : Reg) (s : State) : Result :=
  s.result rd (trunc32 (uval (s.reg rs) - uval (s.reg rt)))

/-- R77. -/
def execXor (rd rs rt : Reg) (s : State) : Result :=
  s.result rd (s.reg rs ^^^ s.reg rt)

/-- R78. -/
def execXori (rt rs : Reg) (imm : Imm16) (s : State) : Result :=
  s.result rt (s.reg rs ^^^ zext16 imm)

end Sys2Proof.Machine
end

