-- ==== Sys2Proof/Machine/BranchJump.lean ====
section
/-! DEFINITION. Branch and jump instructions (43_branch_jump.md R97 to R112). There is no delay slot
(R112), the link is `npc` (R99), and none of these instructions raises: a bad target of `jr` or
`jalr` fails at the next fetch. -/

namespace Sys2Proof.Machine

/-- A branch: to the branch target if it is taken, else on to `npc` (R97). -/
def State.branch (s : State) (taken : Bool) (imm : Imm16) : Result :=
  .next (if taken then s.goto (s.branchTarget imm) else s.advance)

/-- A branch that links: register 31 is written only when it is taken (R102, R105; 90_conflicts.md
C8, log entry 19). -/
def State.branchAndLink (s : State) (taken : Bool) (imm : Imm16) : Result :=
  .next (if taken then (s.setReg linkRegister s.npc).goto (s.branchTarget imm) else s.advance)

/-- R100. -/
def execBeq (rs rt : Reg) (imm : Imm16) (s : State) : Result :=
  s.branch (s.reg rs == s.reg rt) imm

/-- R101. -/
def execBgez (rs : Reg) (imm : Imm16) (s : State) : Result :=
  s.branch (geZero (s.reg rs)) imm

/-- R102. -/
def execBgezal (rs : Reg) (imm : Imm16) (s : State) : Result :=
  s.branchAndLink (geZero (s.reg rs)) imm

/-- R103. -/
def execBgtz (rs : Reg) (imm : Imm16) (s : State) : Result :=
  s.branch (gtZero (s.reg rs)) imm

/-- R104. -/
def execBlez (rs : Reg) (imm : Imm16) (s : State) : Result :=
  s.branch (leZero (s.reg rs)) imm

/-- R105. -/
def execBltzal (rs : Reg) (imm : Imm16) (s : State) : Result :=
  s.branchAndLink (ltZero (s.reg rs)) imm

/-- R106. -/
def execBltz (rs : Reg) (imm : Imm16) (s : State) : Result :=
  s.branch (ltZero (s.reg rs)) imm

/-- R107. -/
def execBne (rs rt : Reg) (imm : Imm16) (s : State) : Result :=
  s.branch (s.reg rs != s.reg rt) imm

/-- R108. -/
def execJ (imm : Imm26) (s : State) : Result :=
  .next (s.goto (s.jumpTarget imm))

/-- R109. -/
def execJal (imm : Imm26) (s : State) : Result :=
  .next ((s.setReg linkRegister s.npc).goto (s.jumpTarget imm))

/-- R110: the target is read before the link is written (00_scope.md R7). -/
def execJalr (rd rs : Reg) (s : State) : Result :=
  .next ((s.setReg rd s.npc).goto (s.reg rs))

/-- R111. -/
def execJr (rs : Reg) (s : State) : Result :=
  .next (s.goto (s.reg rs))

end Sys2Proof.Machine
end

