-- ==== Sys2Proof/Machine/LoadStore.lean ====
section
/-! DEFINITION. Load and store instructions (44_load_store.md R113 to R129). The base register is
never modified; an access that raises writes nothing (R114). -/

namespace Sys2Proof.Machine

/-- A load of `n` bytes: `x[rt] <- value EA` (R114). -/
def State.load (s : State) (rt : Reg) (offset : Imm16) (rs : Reg) (n : Nat)
    (value : Word → Word) : Result :=
  let ea := s.effectiveAddress rs offset
  s.access .load ea n (s.setReg rt (value ea)).advance

/-- A store of `n` bytes: memory becomes that of `stored EA` (R114). -/
def State.store (s : State) (offset : Imm16) (rs : Reg) (n : Nat)
    (stored : Word → State) : Result :=
  let ea := s.effectiveAddress rs offset
  s.access .store ea n (stored ea).advance

/-- R115. -/
def execLb (rt : Reg) (offset : Imm16) (rs : Reg) (s : State) : Result :=
  s.load rt offset rs 1 (fun ea => sext8 (s.byteAt ea))

/-- R116. -/
def execLbu (rt : Reg) (offset : Imm16) (rs : Reg) (s : State) : Result :=
  s.load rt offset rs 1 (fun ea => zext8 (s.byteAt ea))

/-- R117. -/
def execLh (rt : Reg) (offset : Imm16) (rs : Reg) (s : State) : Result :=
  s.load rt offset rs 2 (fun ea => sext16 (s.readHalf ea))

/-- R118. -/
def execLhu (rt : Reg) (offset : Imm16) (rs : Reg) (s : State) : Result :=
  s.load rt offset rs 2 (fun ea => zext16 (s.readHalf ea))

/-- R119. -/
def execLw (rt : Reg) (offset : Imm16) (rs : Reg) (s : State) : Result :=
  s.load rt offset rs 4 (fun ea => s.readWord ea)

/-- R120: any effective address is legal; the register bytes not loaded are kept. The aligned word is
read whole, which R29 allows; admission is asked for the bytes loaded. -/
def execLwl (rt : Reg) (offset : Imm16) (rs : Reg) (s : State) : Result :=
  let ea := s.effectiveAddress rs offset
  let v := mergeLeft (s.readWord (alignedWord ea)) (s.reg rt) (significance s.platform.endian ea)
  s.accessBytes .load ea (leftBytes s.platform.endian ea) (s.setReg rt v).advance

/-- R121: as `lwl`, toward the high order byte. -/
def execLwr (rt : Reg) (offset : Imm16) (rs : Reg) (s : State) : Result :=
  let ea := s.effectiveAddress rs offset
  let v := mergeRight (s.readWord (alignedWord ea)) (s.reg rt) (significance s.platform.endian ea)
  s.accessBytes .load ea (rightBytes s.platform.endian ea) (s.setReg rt v).advance

/-- R122. -/
def execSb (rt : Reg) (offset : Imm16) (rs : Reg) (s : State) : Result :=
  s.store offset rs 1 (fun ea => s.writeByte ea ((s.reg rt).extractLsb' 0 8))

/-- R123. -/
def execSh (rt : Reg) (offset : Imm16) (rs : Reg) (s : State) : Result :=
  s.store offset rs 2 (fun ea => s.writeHalf ea ((s.reg rt).extractLsb' 0 16))

/-- R124. -/
def execSw (rt : Reg) (offset : Imm16) (rs : Reg) (s : State) : Result :=
  s.store offset rs 4 (fun ea => s.writeWord ea (s.reg rt))

/-- R125: single-byte writes; the other bytes of the word are not written. -/
def execSwl (rt : Reg) (offset : Imm16) (rs : Reg) (s : State) : Result :=
  let ea := s.effectiveAddress rs offset
  s.accessBytes .store ea (leftBytes s.platform.endian ea)
    (s.writeCells (leftCells s.platform.endian ea (s.reg rt))).advance

/-- R126: as `swl`, toward the high order byte. -/
def execSwr (rt : Reg) (offset : Imm16) (rs : Reg) (s : State) : Result :=
  let ea := s.effectiveAddress rs offset
  s.accessBytes .store ea (rightBytes s.platform.endian ea)
    (s.writeCells (rightCells s.platform.endian ea (s.reg rt))).advance

end Sys2Proof.Machine
end

