-- ==== Sys2Proof/Machine/MulDiv.lean ====
section
/-! DEFINITION. Multiply, divide and the HIGH / LOW move instructions (42_muldiv.md R87 to R96). None
raises; the results are in HI and LO as soon as the instruction completes (R87). -/

namespace Sys2Proof.Machine

/-- HI and LO written together, and `pc` advances (R87). -/
def State.hiLoResult (s : State) (hi lo : Word) : Result :=
  .next (((s.setHi hi).setLo lo).advance)

/-- `HI : LO` is the 64-bit two's complement pattern of a product (R94, R95, R96). -/
def State.productResult (s : State) (p : Int) : Result :=
  s.hiLoResult ((BitVec.ofInt 64 p).extractLsb' 32 32) ((BitVec.ofInt 64 p).extractLsb' 0 32)

/-- The quotient truncated toward zero in LO, what is left of the numerator in HI, each kept to 32
bits (R88, R89, R96). For -2^31 / -1 this is the decision D13 (log entry 15). -/
def State.quotientResult (s : State) (n d : Int) : Result :=
  s.hiLoResult (trunc32 (n - n.tdiv d * d)) (trunc32 (n.tdiv d))

/-- HI and LO after a division by zero: free values (R88, R89, R138, U1; log entry 9). -/
def State.zeroDivision (s : State) (a b : Word) (signed : Bool) : Result :=
  s.hiLoResult (Config.div0 a b signed).2 (Config.div0 a b signed).1

/-- R88. -/
def execDiv (rs rt : Reg) (s : State) : Result :=
  if sval (s.reg rt) = 0 then s.zeroDivision (s.reg rs) (s.reg rt) true
  else s.quotientResult (sval (s.reg rs)) (sval (s.reg rt))

/-- R89. -/
def execDivu (rs rt : Reg) (s : State) : Result :=
  if uval (s.reg rt) = 0 then s.zeroDivision (s.reg rs) (s.reg rt) false
  else s.quotientResult (uval (s.reg rs)) (uval (s.reg rt))

/-- R90. -/
def execMfhi (rd : Reg) (s : State) : Result :=
  s.result rd s.hi

/-- R91. -/
def execMflo (rd : Reg) (s : State) : Result :=
  s.result rd s.lo

/-- R92: LO is unchanged. -/
def execMthi (rs : Reg) (s : State) : Result :=
  .next ((s.setHi (s.reg rs)).advance)

/-- R93: HI is unchanged. -/
def execMtlo (rs : Reg) (s : State) : Result :=
  .next ((s.setLo (s.reg rs)).advance)

/-- R94. -/
def execMult (rs rt : Reg) (s : State) : Result :=
  s.productResult (sval (s.reg rs) * sval (s.reg rt))

/-- R95. -/
def execMultu (rs rt : Reg) (s : State) : Result :=
  s.productResult (uval (s.reg rs) * uval (s.reg rt))

end Sys2Proof.Machine
end

