-- ==== Sys2Proof/Machine/Shift.lean ====
section
/-! DEFINITION. Shift instructions (41_shift.md R80 to R86): the value shifted is `x[rt]`, the
destination `x[rd]`, the count `sa` or `x[rs][4:0]`. None raises. -/

namespace Sys2Proof.Machine

/-- R81. -/
def execSll (rd rt : Reg) (sa : Shamt) (s : State) : Result :=
  s.result rd (shl (s.reg rt) (fixedCount sa))

/-- R82. -/
def execSllv (rd rt rs : Reg) (s : State) : Result :=
  s.result rd (shl (s.reg rt) (variableCount (s.reg rs)))

/-- R83. -/
def execSra (rd rt : Reg) (sa : Shamt) (s : State) : Result :=
  s.result rd (shra (s.reg rt) (fixedCount sa))

/-- R84. -/
def execSrav (rd rt rs : Reg) (s : State) : Result :=
  s.result rd (shra (s.reg rt) (variableCount (s.reg rs)))

/-- R85. -/
def execSrl (rd rt : Reg) (sa : Shamt) (s : State) : Result :=
  s.result rd (shrl (s.reg rt) (fixedCount sa))

/-- R86. -/
def execSrlv (rd rt rs : Reg) (s : State) : Result :=
  s.result rd (shrl (s.reg rt) (variableCount (s.reg rs)))

end Sys2Proof.Machine
end

