-- ==== Sys2Proof/Machine/System.lean ====
section
/-! DEFINITION. The system call (45_system.md R130, R131): its whole effect is to raise `Syscall`. -/

namespace Sys2Proof.Machine

/-- R130: it reads and writes nothing and does not advance `pc`; the trap records `pc`. What follows
is the environment's (R131). -/
def execSyscall (s : State) : Result :=
  s.raise .syscall

end Sys2Proof.Machine
end

