-- ==== Sys2Proof/Machine/Fetch.lean ====
section
/-! DEFINITION. Fetch and decode: steps 1 to 4 of the instruction cycle (10_state.md R14), in the
order of priority of 60_exceptions.md R139. -/

namespace Sys2Proof.Machine

/-- The instruction at `pc`, or the exception its fetch or decode raises: a misaligned `pc`
(20_memory.md R28), a `pc` not admitted (R31), a word that is no instruction (30_encoding.md R50). -/
def fetch (s : State) : Except Exception Instr :=
  if s.pc.extractLsb' 0 2 ≠ 0b00#2 then .error (.addressError .fetch s.pc)
  else if !s.admitted .fetch s.pc 4 then .error (.addressError .fetch s.pc)
  else
    match decode (s.readWord s.pc) with
    | .ok i => .ok i
    | .error _ => .error (.reservedInstruction (s.readWord s.pc))

/-- An instruction word stored at `pc`, in the byte order in force (70_reset_and_hazards.md R151). -/
def State.placeAtPc (s : State) (w : Word) : State :=
  s.writeWord s.pc w

end Sys2Proof.Machine
end

