-- ==== Sys2Proof/Machine/Step.lean ====
section
/-! DEFINITION. One step of the machine: the instruction cycle of 10_state.md R14. -/

namespace Sys2Proof.Machine

/-- Fetch and decode, then the instruction's own effect; what fetch or decode raises is taken as any
exception is (R14, 60_exceptions.md R139, R141). -/
def step (s : State) : Host.Outcome State Fault Refusal :=
  match fetch s with
  | .ok i => exec i s
  | .error e => s.raise e

/-- The state with the instruction whose bits are `w`, the bits from `nbits` on being 0, stored where
the next step fetches. It stands for the loading of a program from outside the machine
(70_reset_and_hazards.md R151; log entry 8). -/
def State.withFetchWord (s : State) (nbits w : Nat) : State :=
  s.placeAtPc (BitVec.ofNat 32 (w % 2 ^ nbits))

end Sys2Proof.Machine
end

