-- ==== Sys2Proof/Machine/Assembler.lean ====
section
/-! DEFINITION. What the spec says of assembly (30_encoding.md R53, R54, R55): from labels to
immediates, the pseudo-instruction `la`, and `nop`. The order of operands (R52) is that of the
constructors of `Instr`. No rule of the machine uses these. -/

namespace Sys2Proof.Machine

/-- The immediate of a branch at `b` to a label at `l`: `((l - (b + 4)) / 4)[15:0]`, where the
difference must be a multiple of 4 and the quotient in -32768 .. 32767 (R54, the actual processor's
convention). -/
def branchImmediate (b l : Word) : Option Imm16 :=
  let d := uval l - (uval b + 4)
  if d % 4 = 0 ∧ -32768 ≤ d / 4 ∧ d / 4 ≤ 32767 then some (BitVec.ofInt 16 (d / 4)) else none

/-- The immediate of `j` or `jal` at `b` to a label at `l`: `l[27:2]`, where `l[1:0]` must be 00 and
`l[31:28]` must be `(b + 4)[31:28]` (R54). -/
def jumpImmediate (b l : Word) : Option Imm26 :=
  if l.extractLsb' 0 2 = 0b00#2 ∧ l.extractLsb' 28 4 = (b + 4#32).extractLsb' 28 4 then
    some (l.extractLsb' 2 26)
  else none

/-- `la Rt, Label` for a label at `a`: `lui Rt, a[31:16]`, then `ori Rt, Rt, a[15:0]` (R53). -/
def loadAddress (rt : Reg) (a : Word) : List Instr :=
  [.lui rt (a.extractLsb' 16 16), .ori rt rt (a.extractLsb' 0 16)]

/-- `nop`: the all-zero word, `sll $0, $0, 0` (R55). -/
def nop : Instr := .sll 0#5 0#5 0#5

end Sys2Proof.Machine
end

