-- ==== Sys2Proof/Safety.lean ====
section
/-! DEFINITION. The terms claims are stated in: what an instruction changed and what it left alone,
the invariants, and which ends of a run are normal (60_exceptions.md R141, 70_reset_and_hazards.md
R152). -/

namespace Sys2Proof.Machine

/-- Only general register `rd` may differ, and it holds `v`; register 0 still reads as zero
(10_state.md R11). `pc` is said apart. -/
structure RegisterEffect (s t : State) (rd : Reg) (v : Word) : Prop where
  regs : ∀ r : Reg, t.reg r = if r = rd ∧ rd ≠ 0#5 then v else s.reg r
  hi : t.hi = s.hi
  lo : t.lo = s.lo
  memory : ∀ a : Word, t.byteAt a = s.byteAt a
  platform : t.platform = s.platform

/-- Only HI and LO may differ, and they hold `hi` and `lo`. `pc` is said apart. -/
structure HiLoEffect (s t : State) (hi lo : Word) : Prop where
  regs : ∀ r : Reg, t.reg r = s.reg r
  hi : t.hi = hi
  lo : t.lo = lo
  memory : ∀ a : Word, t.byteAt a = s.byteAt a
  platform : t.platform = s.platform

/-- Only `pc` may differ, and it is `target`. -/
structure JumpEffect (s t : State) (target : Word) : Prop where
  pc : t.pc = target
  regs : ∀ r : Reg, t.reg r = s.reg r
  hi : t.hi = s.hi
  lo : t.lo = s.lo
  memory : ∀ a : Word, t.byteAt a = s.byteAt a
  platform : t.platform = s.platform

/-- Only the bytes of memory at the addresses `stored` may differ. `pc`, and what the bytes hold, are
said apart. -/
structure StoreFrame (s t : State) (stored : List Word) : Prop where
  regs : ∀ r : Reg, t.reg r = s.reg r
  hi : t.hi = s.hi
  lo : t.lo = s.lo
  memory : ∀ a : Word, a ∉ stored → t.byteAt a = s.byteAt a
  platform : t.platform = s.platform

/-- The instruction completes: `rd` takes `v`, nothing else changes, and `pc` advances. -/
def writesRegister (i : Instr) (s : State) (rd : Reg) (v : Word) : Prop :=
  ∃ t, exec i s = .next t ∧ RegisterEffect s t rd v ∧ t.pc = s.pc + 4#32

/-- The instruction completes: HI and LO take `hi` and `lo`, nothing else changes, and `pc`
advances. -/
def writesHiLo (i : Instr) (s : State) (hi lo : Word) : Prop :=
  ∃ t, exec i s = .next t ∧ HiLoEffect s t hi lo ∧ t.pc = s.pc + 4#32

/-- The instruction completes: `pc` takes `target` and nothing else changes. -/
def jumpsTo (i : Instr) (s : State) (target : Word) : Prop :=
  ∃ t, exec i s = .next t ∧ JumpEffect s t target

/-- The instruction completes: `rd` takes the link `pc + 4` (43_branch_jump.md R99), `pc` takes
`target`, and nothing else changes. -/
def jumpsAndLinks (i : Instr) (s : State) (rd : Reg) (target : Word) : Prop :=
  ∃ t, exec i s = .next t ∧ RegisterEffect s t rd (s.pc + 4#32) ∧ t.pc = target

/-- The instruction completes: of memory only the bytes at the addresses `stored` may change, what
they then hold is `holds`, `pc` advances, and nothing else changes. -/
def stores (i : Instr) (s : State) (stored : List Word) (holds : State → Prop) : Prop :=
  ∃ t, exec i s = .next t ∧ StoreFrame s t stored ∧ holds t ∧ t.pc = s.pc + 4#32

/-- The general register an instruction writes, where it writes one (10_state.md R22). -/
def destination : Instr → Option Reg
  | .add rd _ _ | .addu rd _ _ | .and rd _ _ | .nor rd _ _ | .or rd _ _ | .slt rd _ _ => some rd
  | .sltu rd _ _ | .sub rd _ _ | .subu rd _ _ | .xor rd _ _ => some rd
  | .addi rt _ _ | .addiu rt _ _ | .andi rt _ _ | .ori rt _ _ | .slti rt _ _ => some rt
  | .sltiu rt _ _ | .xori rt _ _ | .lui rt _ => some rt
  | .sll rd _ _ | .sllv rd _ _ | .sra rd _ _ | .srav rd _ _ | .srl rd _ _ | .srlv rd _ _ => some rd
  | .mfhi rd | .mflo rd | .jalr rd _ => some rd
  | .lb rt _ _ | .lbu rt _ _ | .lh rt _ _ | .lhu rt _ _ | .lw rt _ _ | .lwl rt _ _ => some rt
  | .lwr rt _ _ => some rt
  | .bgezal _ _ | .bltzal _ _ | .jal _ => some linkRegister
  | .div _ _ | .divu _ _ | .mult _ _ | .multu _ _ | .mthi _ | .mtlo _ => none
  | .beq _ _ _ | .bne _ _ _ | .bgez _ _ | .bgtz _ _ | .blez _ _ | .bltz _ _ | .j _ | .jr _ => none
  | .sb _ _ _ | .sh _ _ _ | .sw _ _ _ | .swl _ _ _ | .swr _ _ _ | .syscall => none

/-- The instructions that write memory (10_state.md R22). -/
def isStore : Instr → Prop
  | .sb _ _ _ | .sh _ _ _ | .sw _ _ _ | .swl _ _ _ | .swr _ _ _ => True
  | _ => False

/-- The instructions that write HI or LO (10_state.md R16). -/
def writesHiOrLo : Instr → Prop
  | .div _ _ | .divu _ _ | .mult _ _ | .multu _ _ | .mthi _ | .mtlo _ => True
  | _ => False

/-- The instructions that can raise an exception on a platform that admits every access
(60_exceptions.md R132). -/
def canRaise : Instr → Prop
  | .add _ _ _ | .addi _ _ _ | .sub _ _ _ => True
  | .lh _ _ _ | .lhu _ _ _ | .lw _ _ _ | .sh _ _ _ | .sw _ _ _ | .syscall => True
  | _ => False

/-- The instruction address is a multiple of 4 (10_state.md R15). -/
def State.pcAligned (s : State) : Prop := s.pc.extractLsb' 0 2 = 0b00#2

/-- The invariant of the model's own representation: memory is in its canonical form. -/
def State.Inv (s : State) : Prop := s.mem.wf

/-- The address of the instruction that a trap outcome records (60_exceptions.md R132). -/
def Fault.epc : Fault → Word
  | .overflow epc => epc
  | .addressError epc _ _ => epc
  | .syscall epc => epc
  | .reservedInstruction epc _ => epc

/-- A run that ends with `Trap(Syscall, ..)` ends normally (R141, R152). -/
def Fault.isNormalEnd : Fault → Bool
  | .syscall _ => true
  | .overflow _ => false
  | .addressError _ _ _ => false
  | .reservedInstruction _ _ => false

/-- An outcome that is no abnormal end: the run goes on, or it ended with the system call (R152). -/
def safeOutcome : Result → Bool
  | .next _ => true
  | .fault f => f.isNormalEnd
  | .refused _ => false

end Sys2Proof.Machine
end

