-- ==== Sys2Proof/Certificates/Slice0/Obligations.lean ====
section
/-! DEFINITION. The statements for the provers, each from the numbered rules its docstring names. -/

open Sys2Proof Sys2Proof.Machine

/-! Arithmetic, logic, comparison (40_arith_logic.md). -/

/-- R61: the encoding, the sum, and the Overflow exception with nothing written. Derived: that nothing
is written on overflow is the spec's decision D12 (40_arith_logic.md R60; log entry 21). -/
def Obligations.AddAddsOrRaisesOverflow : Prop :=
  ∀ (s : State) (rd rs rt : Reg),
    encode (.add rd rs rt) = (0b000000#6 ++ rs ++ rt ++ rd ++ 0b00000#5 ++ 0b100000#6 : Word) ∧
    (-(2 ^ 31) ≤ (s.reg rs).toInt + (s.reg rt).toInt ∧
        (s.reg rs).toInt + (s.reg rt).toInt ≤ 2 ^ 31 - 1 →
      writesRegister (.add rd rs rt) s rd (s.reg rs + s.reg rt)) ∧
    ((s.reg rs).toInt + (s.reg rt).toInt < -(2 ^ 31) ∨
        (s.reg rs).toInt + (s.reg rt).toInt > 2 ^ 31 - 1 →
      exec (.add rd rs rt) s = s.raise .overflow)

/-- R62: the encoding, the sum with the sign-extended immediate, and the Overflow exception.
Derived: the op-code is the spec's own (92_eei_decisions.md D27, log entry 10), and that nothing is
written on overflow is D12 (log entry 21). -/
def Obligations.AddiAddsOrRaisesOverflow : Prop :=
  ∀ (s : State) (rt rs : Reg) (imm : Imm16),
    encode (.addi rt rs imm) = (0b001000#6 ++ rs ++ rt ++ imm : Word) ∧
    (-(2 ^ 31) ≤ (s.reg rs).toInt + imm.toInt ∧ (s.reg rs).toInt + imm.toInt ≤ 2 ^ 31 - 1 →
      writesRegister (.addi rt rs imm) s rt (s.reg rs + imm.signExtend 32)) ∧
    ((s.reg rs).toInt + imm.toInt < -(2 ^ 31) ∨ (s.reg rs).toInt + imm.toInt > 2 ^ 31 - 1 →
      exec (.addi rt rs imm) s = s.raise .overflow)

/-- R75: the encoding, the difference, and the Overflow exception with nothing written. Derived: that
nothing is written on overflow is the spec's decision D12 (40_arith_logic.md R60; log entry 21). -/
def Obligations.SubSubtractsOrRaisesOverflow : Prop :=
  ∀ (s : State) (rd rs rt : Reg),
    encode (.sub rd rs rt) = (0b000000#6 ++ rs ++ rt ++ rd ++ 0b00000#5 ++ 0b100010#6 : Word) ∧
    (-(2 ^ 31) ≤ (s.reg rs).toInt - (s.reg rt).toInt ∧
        (s.reg rs).toInt - (s.reg rt).toInt ≤ 2 ^ 31 - 1 →
      writesRegister (.sub rd rs rt) s rd (s.reg rs - s.reg rt)) ∧
    ((s.reg rs).toInt - (s.reg rt).toInt < -(2 ^ 31) ∨
        (s.reg rs).toInt - (s.reg rt).toInt > 2 ^ 31 - 1 →
      exec (.sub rd rs rt) s = s.raise .overflow)

/-- R63, R76: the encodings, and the sum or the difference modulo 2^32 that never raises. -/
def Obligations.UnsignedSumsAndDifferencesWrap : Prop :=
  ∀ (s : State) (rd rs rt : Reg) (imm : Imm16),
    encode (.addiu rt rs imm) = (0b001001#6 ++ rs ++ rt ++ imm : Word) ∧
    encode (.subu rd rs rt) = (0b000000#6 ++ rs ++ rt ++ rd ++ 0b00000#5 ++ 0b100011#6 : Word) ∧
    writesRegister (.addiu rt rs imm) s rt (s.reg rs + imm.signExtend 32) ∧
    writesRegister (.subu rd rs rt) s rd (s.reg rs - s.reg rt)

/-- R79: signed overflow of a sum or a difference, as an integer out of range and as a test of three
sign bits. Derived: R79 marks the equivalence as its own derivation. -/
def Obligations.OverflowIsASignBitTest : Prop :=
  ∀ a b : Word,
    (overflows (sval a + sval b) = true ↔ a.msb = b.msb ∧ (a + b).msb ≠ a.msb) ∧
    (overflows (sval a - sval b) = true ↔ a.msb ≠ b.msb ∧ (a - b).msb ≠ a.msb)

/-- R65, R68, R69, R77: the encodings, and every bit of the result. -/
def Obligations.BitwiseRegisterInstructions : Prop :=
  ∀ (s : State) (rd rs rt : Reg),
    (encode (.and rd rs rt) = (0b000000#6 ++ rs ++ rt ++ rd ++ 0b00000#5 ++ 0b100100#6 : Word) ∧
      ∃ v, writesRegister (.and rd rs rt) s rd v ∧
        ∀ k < 32, v.getLsbD k = ((s.reg rs).getLsbD k && (s.reg rt).getLsbD k)) ∧
    (encode (.or rd rs rt) = (0b000000#6 ++ rs ++ rt ++ rd ++ 0b00000#5 ++ 0b100101#6 : Word) ∧
      ∃ v, writesRegister (.or rd rs rt) s rd v ∧
        ∀ k < 32, v.getLsbD k = ((s.reg rs).getLsbD k || (s.reg rt).getLsbD k)) ∧
    (encode (.xor rd rs rt) = (0b000000#6 ++ rs ++ rt ++ rd ++ 0b00000#5 ++ 0b100110#6 : Word) ∧
      ∃ v, writesRegister (.xor rd rs rt) s rd v ∧
        ∀ k < 32, v.getLsbD k = ((s.reg rs).getLsbD k != (s.reg rt).getLsbD k)) ∧
    (encode (.nor rd rs rt) = (0b000000#6 ++ rs ++ rt ++ rd ++ 0b00000#5 ++ 0b100111#6 : Word) ∧
      ∃ v, writesRegister (.nor rd rs rt) s rd v ∧
        ∀ k < 32, v.getLsbD k = (!(s.reg rs).getLsbD k && !(s.reg rt).getLsbD k))

/-- R70, R78: the encodings, and every bit of the result; the immediate's upper half is zeros. -/
def Obligations.BitwiseImmediateInstructions : Prop :=
  ∀ (s : State) (rt rs : Reg) (imm : Imm16),
    (encode (.ori rt rs imm) = (0b001101#6 ++ rs ++ rt ++ imm : Word) ∧
      ∃ v, writesRegister (.ori rt rs imm) s rt v ∧
        ∀ k < 32, v.getLsbD k = ((s.reg rs).getLsbD k || (decide (k < 16) && imm.getLsbD k))) ∧
    (encode (.xori rt rs imm) = (0b001110#6 ++ rs ++ rt ++ imm : Word) ∧
      ∃ v, writesRegister (.xori rt rs imm) s rt v ∧
        ∀ k < 32, v.getLsbD k = ((s.reg rs).getLsbD k != (decide (k < 16) && imm.getLsbD k)))

/-- R66, R67: `andi` by its bits, its upper half zeros, and `lui`, the immediate over zeros. Derived:
both op-codes are the spec's own (30_encoding.md R46 "GK"; 92_eei_decisions.md D27, log entry 10). -/
def Obligations.AndImmediateAndLoadUpperImmediate : Prop :=
  ∀ (s : State) (rt rs : Reg) (imm : Imm16),
    (encode (.andi rt rs imm) = (0b001100#6 ++ rs ++ rt ++ imm : Word) ∧
      ∃ v, writesRegister (.andi rt rs imm) s rt v ∧
        ∀ k < 32, v.getLsbD k = (decide (k < 16) && (s.reg rs).getLsbD k && imm.getLsbD k)) ∧
    encode (.lui rt imm) = (0b001111#6 ++ 0b00000#5 ++ rt ++ imm : Word) ∧
    writesRegister (.lui rt imm) s rt (imm ++ 0x0000#16)

/-- R71: the encoding, and 1 or 0 by the signed comparison. -/
def Obligations.SetOnLessThanRegisters : Prop :=
  ∀ (s : State) (rd rs rt : Reg),
    encode (.slt rd rs rt) = (0b000000#6 ++ rs ++ rt ++ rd ++ 0b00000#5 ++ 0b101010#6 : Word) ∧
    writesRegister (.slt rd rs rt) s rd
      (if (s.reg rs).toInt < (s.reg rt).toInt then 0x00000001#32 else 0x00000000#32)

/-- R72, R73: the encodings, and 1 or 0 by comparing with the sign-extended immediate, signed or
unsigned. Derived: both op-codes are the spec's own (D27, log entry 10). -/
def Obligations.SetOnLessThanImmediates : Prop :=
  ∀ (s : State) (rt rs : Reg) (imm : Imm16),
    encode (.slti rt rs imm) = (0b001010#6 ++ rs ++ rt ++ imm : Word) ∧
    encode (.sltiu rt rs imm) = (0b001011#6 ++ rs ++ rt ++ imm : Word) ∧
    writesRegister (.slti rt rs imm) s rt
      (if (s.reg rs).toInt < imm.toInt then 0x00000001#32 else 0x00000000#32) ∧
    writesRegister (.sltiu rt rs imm) s rt
      (if (s.reg rs).toNat < (imm.signExtend 32).toNat then 1#32 else 0#32)

/-! Shifts (41_shift.md). -/

/-- R81, R83: the encodings, and the results as arithmetic on the value (R80). -/
def Obligations.FixedShifts : Prop :=
  ∀ (s : State) (rd rt : Reg) (sa : Shamt),
    (encode (.sll rd rt sa) = (0b000000#6 ++ 0b00000#5 ++ rt ++ rd ++ sa ++ 0b000000#6 : Word) ∧
      ∃ v, writesRegister (.sll rd rt sa) s rd v ∧
        v.toNat = (s.reg rt).toNat * 2 ^ sa.toNat % 2 ^ 32) ∧
    (encode (.sra rd rt sa) = (0b000000#6 ++ 0b00000#5 ++ rt ++ rd ++ sa ++ 0b000011#6 : Word) ∧
      ∃ v, writesRegister (.sra rd rt sa) s rd v ∧
        v.toInt = (s.reg rt).toInt / 2 ^ sa.toNat)

/-- R84, R86: the encodings, and the right shifts by the count register modulo 32, as arithmetic on
the value (R80). -/
def Obligations.VariableShifts : Prop :=
  ∀ (s : State) (rd rt rs : Reg),
    (encode (.srlv rd rt rs) = (0b000000#6 ++ rs ++ rt ++ rd ++ 0b00000#5 ++ 0b000110#6 : Word) ∧
      ∃ v, writesRegister (.srlv rd rt rs) s rd v ∧
        v.toNat = (s.reg rt).toNat / 2 ^ ((s.reg rs).toNat % 32)) ∧
    (encode (.srav rd rt rs) = (0b000000#6 ++ rs ++ rt ++ rd ++ 0b00000#5 ++ 0b000111#6 : Word) ∧
      ∃ v, writesRegister (.srav rd rt rs) s rd v ∧
        v.toInt = (s.reg rt).toInt / 2 ^ ((s.reg rs).toNat % 32))

/-- R64, R74, R82, R85: `addu`, `sltu`, `sllv` and `srl`, encoding and result. Derived: their function
codes are the spec's own (30_encoding.md R47 "GK"; 92_eei_decisions.md D27, log entry 10). -/
def Obligations.RegisterInstructionsWithoutAFigure : Prop :=
  ∀ (s : State) (rd rs rt : Reg) (sa : Shamt),
    (encode (.addu rd rs rt) = (0b000000#6 ++ rs ++ rt ++ rd ++ 0b00000#5 ++ 0b100001#6 : Word) ∧
      ∃ v, writesRegister (.addu rd rs rt) s rd v ∧
        v.toNat = ((s.reg rs).toNat + (s.reg rt).toNat) % 2 ^ 32) ∧
    (encode (.sltu rd rs rt) = (0b000000#6 ++ rs ++ rt ++ rd ++ 0b00000#5 ++ 0b101011#6 : Word) ∧
      writesRegister (.sltu rd rs rt) s rd
        (if (s.reg rs).toNat < (s.reg rt).toNat then 0x00000001#32 else 0x00000000#32)) ∧
    (encode (.sllv rd rt rs) = (0b000000#6 ++ rs ++ rt ++ rd ++ 0b00000#5 ++ 0b000100#6 : Word) ∧
      ∃ v, writesRegister (.sllv rd rt rs) s rd v ∧
        v.toNat = (s.reg rt).toNat * 2 ^ ((s.reg rs).toNat % 32) % 2 ^ 32) ∧
    (encode (.srl rd rt sa) = (0b000000#6 ++ 0b00000#5 ++ rt ++ rd ++ sa ++ 0b000010#6 : Word) ∧
      ∃ v, writesRegister (.srl rd rt sa) s rd v ∧
        v.toNat = (s.reg rt).toNat / 2 ^ sa.toNat)

/-! Multiply, divide, HI and LO (42_muldiv.md). -/

/-- R94, R95: the encodings, and `HI : LO` is exactly the signed or the unsigned product. -/
def Obligations.MultiplyLeavesTheExactProduct : Prop :=
  ∀ (s : State) (rs rt : Reg),
    (encode (.mult rs rt) =
       (0b000000#6 ++ rs ++ rt ++ 0b00000#5 ++ 0b00000#5 ++ 0b011000#6 : Word) ∧
      ∃ hi lo : Word, writesHiLo (.mult rs rt) s hi lo ∧
        (hi ++ lo : BitVec 64).toInt = (s.reg rs).toInt * (s.reg rt).toInt) ∧
    (encode (.multu rs rt) =
       (0b000000#6 ++ rs ++ rt ++ 0b00000#5 ++ 0b00000#5 ++ 0b011001#6 : Word) ∧
      ∃ hi lo : Word, writesHiLo (.multu rs rt) s hi lo ∧
        (hi ++ lo : BitVec 64).toNat = (s.reg rs).toNat * (s.reg rt).toNat)

/-- R88 with R96: the encoding; with a divisor other than 0, the quotient in LO and the remainder in
HI, the remainder with the numerator's sign and smaller than the divisor; with divisor 0 the pair
`DIV0`, whatever it is, in LO and HI, no exception, and nothing else. Derived: the values for -2^31
/ -1 are the spec's decision D13 (R96, log entry 15). -/
def Obligations.DivTruncatesTowardZero : Prop :=
  ∀ (s : State) (rs rt : Reg),
    encode (.div rs rt) = (0b000000#6 ++ rs ++ rt ++ 0b00000#5 ++ 0b00000#5 ++ 0b011010#6 : Word) ∧
    (s.reg rt ≠ 0#32 →
      ∃ q r : Int, (s.reg rs).toInt = q * (s.reg rt).toInt + r ∧
        r.natAbs < (s.reg rt).toInt.natAbs ∧
        (r = 0 ∨ (0 < r ∧ 0 < (s.reg rs).toInt) ∨ (r < 0 ∧ (s.reg rs).toInt < 0)) ∧
        writesHiLo (.div rs rt) s (BitVec.ofInt 32 r) (BitVec.ofInt 32 q)) ∧
    (s.reg rt = 0#32 →
      writesHiLo (.div rs rt) s (Config.div0 (s.reg rs) (s.reg rt) true).2
        (Config.div0 (s.reg rs) (s.reg rt) true).1)

/-- R89: the encoding; with a divisor other than 0, the unsigned quotient and remainder; with divisor
0 the pair `DIV0`, whatever it is, in LO and HI, no exception, and nothing else. -/
def Obligations.DivuDividesUnsigned : Prop :=
  ∀ (s : State) (rs rt : Reg),
    encode (.divu rs rt) = (0b000000#6 ++ rs ++ rt ++ 0b00000#5 ++ 0b00000#5 ++ 0b011011#6 : Word) ∧
    (s.reg rt ≠ 0#32 →
      writesHiLo (.divu rs rt) s (s.reg rs % s.reg rt) (s.reg rs / s.reg rt)) ∧
    (s.reg rt = 0#32 →
      writesHiLo (.divu rs rt) s (Config.div0 (s.reg rs) (s.reg rt) false).2
        (Config.div0 (s.reg rs) (s.reg rt) false).1)

/-- R90, R91: the encodings, and the copies of HI and LO into a general register. -/
def Obligations.MovesFromHiAndLo : Prop :=
  ∀ (s : State) (rd : Reg),
    encode (.mfhi rd) =
      (0b000000#6 ++ 0b00000#5 ++ 0b00000#5 ++ rd ++ 0b00000#5 ++ 0b010000#6 : Word) ∧
    encode (.mflo rd) =
      (0b000000#6 ++ 0b00000#5 ++ 0b00000#5 ++ rd ++ 0b00000#5 ++ 0b010010#6 : Word) ∧
    writesRegister (.mfhi rd) s rd s.hi ∧
    writesRegister (.mflo rd) s rd s.lo

/-- R92, R93: the encodings, and the copies of a general register into HI or LO. Derived: that the
other of the two is unchanged is the spec's decision D21 (log entry 28). -/
def Obligations.MovesToHiAndLo : Prop :=
  ∀ (s : State) (rs : Reg),
    encode (.mthi rs) =
      (0b000000#6 ++ rs ++ 0b00000#5 ++ 0b00000#5 ++ 0b00000#5 ++ 0b010001#6 : Word) ∧
    encode (.mtlo rs) =
      (0b000000#6 ++ rs ++ 0b00000#5 ++ 0b00000#5 ++ 0b00000#5 ++ 0b010011#6 : Word) ∧
    writesHiLo (.mthi rs) s (s.reg rs) s.lo ∧
    writesHiLo (.mtlo rs) s s.hi (s.reg rs)

/-- R16: no other instruction writes HI or LO. Derived: of R16 this is the part about writing. -/
def Obligations.OnlySixInstructionsWriteHiLo : Prop :=
  ∀ (i : Instr) (s t : State), s.platform.environment = .terminal → exec i s = .next t →
    ¬ writesHiOrLo i → t.hi = s.hi ∧ t.lo = s.lo

/-! Branches and jumps (43_branch_jump.md). -/

/-- R100, R107 with R97: the encodings, and `pc + 4 + 4 * imm16` or `pc + 4` by equality. Derived:
the op-codes are the spec's own (D27, log entry 10), the base of the offset is D5 (log entry 13),
and there being no delay slot is D6 (log entry 14). -/
def Obligations.BranchesOnEquality : Prop :=
  ∀ (s : State) (rs rt : Reg) (imm : Imm16),
    encode (.beq rs rt imm) = (0b000100#6 ++ rs ++ rt ++ imm : Word) ∧
    encode (.bne rs rt imm) = (0b000101#6 ++ rs ++ rt ++ imm : Word) ∧
    jumpsTo (.beq rs rt imm) s
      (if s.reg rs = s.reg rt then s.pc + 4#32 + imm.signExtend 32 <<< 2 else s.pc + 4#32) ∧
    jumpsTo (.bne rs rt imm) s
      (if s.reg rs = s.reg rt then s.pc + 4#32 else s.pc + 4#32 + imm.signExtend 32 <<< 2)

/-- R101, R103, R104, R106 with R97: the encodings, and the branch by the sign bit and by zero.
Derived: the base of the offset is D5 (log entry 13), there being no delay slot D6 (log entry 14),
and the code of `bgez` D27 (log entry 10). -/
def Obligations.BranchesOnSign : Prop :=
  ∀ (s : State) (rs : Reg) (imm : Imm16),
    encode (.bgez rs imm) = (0b000001#6 ++ rs ++ 0b00001#5 ++ imm : Word) ∧
    encode (.bgtz rs imm) = (0b000111#6 ++ rs ++ 0b00000#5 ++ imm : Word) ∧
    encode (.blez rs imm) = (0b000110#6 ++ rs ++ 0b00000#5 ++ imm : Word) ∧
    encode (.bltz rs imm) = (0b000001#6 ++ rs ++ 0b00000#5 ++ imm : Word) ∧
    jumpsTo (.bgez rs imm) s
      (if (s.reg rs).msb = false then s.pc + 4#32 + imm.signExtend 32 <<< 2 else s.pc + 4#32) ∧
    jumpsTo (.bgtz rs imm) s
      (if (s.reg rs).msb = false ∧ s.reg rs ≠ 0#32 then s.pc + 4#32 + imm.signExtend 32 <<< 2
        else s.pc + 4#32) ∧
    jumpsTo (.blez rs imm) s
      (if (s.reg rs).msb = true ∨ s.reg rs = 0#32 then s.pc + 4#32 + imm.signExtend 32 <<< 2
        else s.pc + 4#32) ∧
    jumpsTo (.bltz rs imm) s
      (if (s.reg rs).msb = true then s.pc + 4#32 + imm.signExtend 32 <<< 2 else s.pc + 4#32)

/-- R102, R105 with R97, R99: the encodings; taken, register 31 takes the link; not taken, only `pc`
changes. Derived: a link only when taken is D18 (log entry 19), its value and there being no delay
slot D6 (log entry 14), the base D5 (log entry 13), `$ra` = 31 D3 (log entry 11). -/
def Obligations.BranchesThatLink : Prop :=
  ∀ (s : State) (rs : Reg) (imm : Imm16),
    encode (.bgezal rs imm) = (0b000001#6 ++ rs ++ 0b10001#5 ++ imm : Word) ∧
    encode (.bltzal rs imm) = (0b000001#6 ++ rs ++ 0b10000#5 ++ imm : Word) ∧
    ((s.reg rs).msb = false →
      jumpsAndLinks (.bgezal rs imm) s 31#5 (s.pc + 4#32 + imm.signExtend 32 <<< 2) ∧
      jumpsTo (.bltzal rs imm) s (s.pc + 4#32)) ∧
    ((s.reg rs).msb = true →
      jumpsAndLinks (.bltzal rs imm) s 31#5 (s.pc + 4#32 + imm.signExtend 32 <<< 2) ∧
      jumpsTo (.bgezal rs imm) s (s.pc + 4#32))

/-- R97: the target is the address after the branch plus four times the offset, so offset -1 is the
branch itself, offset 0 the next instruction, and the reach is -131072 to +131068 bytes. Derived:
the base is the spec's decision D5 (log entry 13). -/
def Obligations.BranchTargetBase : Prop :=
  ∀ s : State,
    (∀ imm : Imm16, s.branchTarget imm = BitVec.ofInt 32 (s.pc.toNat + 4 + 4 * imm.toInt)) ∧
    s.branchTarget 0xFFFF#16 = s.pc ∧
    s.branchTarget 0x0000#16 = s.pc + 4#32 ∧
    s.branchTarget 0x7FFF#16 = s.pc + 4#32 + 131068#32 ∧
    s.branchTarget 0x8000#16 = s.pc + 4#32 - 131072#32

/-- R108, R109 with R98, R99: the encodings; the target keeps bits 31:28 of `pc + 4` and takes the
field as its bits 27:2; `jal` links. Derived: the region of `pc + 4` is D24 (log entry 29), the link
D6 and D3 (log entries 14, 11), the op-codes D27 (log entry 10). -/
def Obligations.JumpsWithinTheRegion : Prop :=
  ∀ (s : State) (imm : Imm26),
    encode (.j imm) = (0b000010#6 ++ imm : Word) ∧
    encode (.jal imm) = (0b000011#6 ++ imm : Word) ∧
    ∃ target : Word,
      target.extractLsb' 28 4 = (s.pc + 4#32).extractLsb' 28 4 ∧
      target.extractLsb' 2 26 = imm ∧ target.extractLsb' 0 2 = 0b00#2 ∧
      jumpsTo (.j imm) s target ∧ jumpsAndLinks (.jal imm) s 31#5 target

/-- R110, R111: the encodings; `pc` takes the old value of the register, unchecked, and `jalr`
links. Derived: reading the target first is D11 (log entry 20), the link D6 (log entry 14), the
function code of `jr` D27 (log entry 10). -/
def Obligations.RegisterJumps : Prop :=
  ∀ (s : State) (rd rs : Reg),
    encode (.jalr rd rs) =
      (0b000000#6 ++ rs ++ 0b00000#5 ++ rd ++ 0b00000#5 ++ 0b001001#6 : Word) ∧
    encode (.jr rs) =
      (0b000000#6 ++ rs ++ 0b00000#5 ++ 0b00000#5 ++ 0b00000#5 ++ 0b001000#6 : Word) ∧
    jumpsAndLinks (.jalr rd rs) s rd (s.reg rs) ∧
    jumpsTo (.jr rs) s (s.reg rs)

/-- R28, R112: of all the instructions only `jr` and `jalr` can make an aligned `pc` misaligned.
Derived: D10 (log entry 18). -/
def Obligations.OnlyRegisterJumpsMisalignPc : Prop :=
  ∀ (i : Instr) (s t : State), s.platform.environment = .terminal → s.pcAligned →
    exec i s = .next t → (∀ rs, i ≠ .jr rs) → (∀ rd rs, i ≠ .jalr rd rs) → t.pcAligned

/-! Loads and stores (44_load_store.md, 20_memory.md). -/

/-- R113: base plus sign-extended offset, modulo 2^32. Derived: R113 marks the wrap as its own
derivation. -/
def Obligations.EffectiveAddressWraps : Prop :=
  ∀ (s : State) (rs : Reg) (offset : Imm16),
    s.effectiveAddress rs offset = s.reg rs + offset.signExtend 32 ∧
    ((s.effectiveAddress rs offset).toNat : Int) =
      ((s.reg rs).toNat + offset.toInt) % 2 ^ 32

/-- R115, R116: the encodings, the byte at the effective address sign or zero extended, and the
address error where the platform does not admit the access. Derived: the op-codes are the spec's own
(D27, log entry 10), admission is D4 (log entry 2). -/
def Obligations.ByteLoads : Prop :=
  ∀ (s : State) (rt : Reg) (offset : Imm16) (rs : Reg) (ea : Word),
    ea = s.effectiveAddress rs offset →
    encode (.lb rt offset rs) = (0b100000#6 ++ rs ++ rt ++ offset : Word) ∧
    encode (.lbu rt offset rs) = (0b100100#6 ++ rs ++ rt ++ offset : Word) ∧
    (s.admitted .load ea 1 = true →
      (∃ v, writesRegister (.lb rt offset rs) s rt v ∧ v.toInt = (s.byteAt ea).toInt) ∧
      (∃ v, writesRegister (.lbu rt offset rs) s rt v ∧ v.toNat = (s.byteAt ea).toNat)) ∧
    (s.admitted .load ea 1 = false →
      exec (.lb rt offset rs) s = s.raise (.addressError .load ea) ∧
      exec (.lbu rt offset rs) s = s.raise (.addressError .load ea))

/-- R117, R118 with R25: the encodings, the halfword in either byte order sign or zero extended, and
the address error of an odd address. Derived: the op-code of `lhu` is the spec's own (D27, log entry
10), the byte order is the parameter of D1 (log entry 1). -/
def Obligations.HalfwordLoads : Prop :=
  ∀ (s : State) (rt : Reg) (offset : Imm16) (rs : Reg) (ea : Word) (h : Half),
    ea = s.effectiveAddress rs offset →
    h = (match s.platform.endian with
      | .little => s.byteAt (ea + 1#32) ++ s.byteAt ea
      | .big => s.byteAt ea ++ s.byteAt (ea + 1#32)) →
    encode (.lh rt offset rs) = (0b100001#6 ++ rs ++ rt ++ offset : Word) ∧
    encode (.lhu rt offset rs) = (0b100101#6 ++ rs ++ rt ++ offset : Word) ∧
    (ea.getLsbD 0 = false → s.admitted .load ea 2 = true →
      (∃ v, writesRegister (.lh rt offset rs) s rt v ∧ v.toInt = h.toInt) ∧
      (∃ v, writesRegister (.lhu rt offset rs) s rt v ∧ v.toNat = h.toNat)) ∧
    (ea.getLsbD 0 = true →
      exec (.lh rt offset rs) s = s.raise (.addressError .load ea) ∧
      exec (.lhu rt offset rs) s = s.raise (.addressError .load ea))

/-- R119 with R25: the encoding, the word in either byte order, and the address error. Derived: the
op-code is the spec's own (D27, log entry 10), the byte order is the parameter of D1 (log entry 1).
-/
def Obligations.WordLoads : Prop :=
  ∀ (s : State) (rt : Reg) (offset : Imm16) (rs : Reg) (ea : Word),
    ea = s.effectiveAddress rs offset →
    encode (.lw rt offset rs) = (0b100011#6 ++ rs ++ rt ++ offset : Word) ∧
    (ea.extractLsb' 0 2 = 0b00#2 → s.admitted .load ea 4 = true →
      writesRegister (.lw rt offset rs) s rt
        (match s.platform.endian with
          | .little => s.byteAt (ea + 3#32) ++ s.byteAt (ea + 2#32) ++ s.byteAt (ea + 1#32) ++
              s.byteAt ea
          | .big => s.byteAt ea ++ s.byteAt (ea + 1#32) ++ s.byteAt (ea + 2#32) ++
              s.byteAt (ea + 3#32))) ∧
    (ea.extractLsb' 0 2 ≠ 0b00#2 →
      exec (.lw rt offset rs) s = s.raise (.addressError .load ea))

/-- R127: the byte at `EA` is `m_k` of the aligned word at `A`, and `m_j` is byte `j` of that word.
Derived: the reading of "order" as significance is D1 (log entry 1). -/
def Obligations.SignificanceOfTheAddressedByte : Prop :=
  ∀ (s : State) (ea : Word),
    significance s.platform.endian ea ≤ 3 ∧
    significantByte s.platform.endian (alignedWord ea) (significance s.platform.endian ea) = ea ∧
    ∀ j < 4, (s.readWord (alignedWord ea)).extractLsb' (8 * j) 8 =
      s.byteAt (significantByte s.platform.endian (alignedWord ea) j)

/-- R120, R121, byte by byte: `lwl` puts `m_0..m_k` in the upper bytes and keeps the others, `lwr`
puts `m_k..m_3` in the lower bytes and keeps the others; every effective address is legal. Derived:
keeping the other bytes is D22 (log entry 27), the op-codes D27 (log entry 10), and an access of
size 1 for each byte is the model's choice (log entry 3). -/
def Obligations.PartialWordLoads : Prop :=
  ∀ (s : State) (rt : Reg) (offset : Imm16) (rs : Reg) (ea : Word) (k : Nat) (m : Nat → Byte),
    ea = s.effectiveAddress rs offset → k = significance s.platform.endian ea →
    (∀ j, m j = s.byteAt (significantByte s.platform.endian (alignedWord ea) j)) →
    encode (.lwl rt offset rs) = (0b100010#6 ++ rs ++ rt ++ offset : Word) ∧
    encode (.lwr rt offset rs) = (0b100110#6 ++ rs ++ rt ++ offset : Word) ∧
    ((∀ a ∈ leftBytes s.platform.endian ea, s.admitted .load a 1 = true) →
      ∃ v, writesRegister (.lwl rt offset rs) s rt v ∧
        ∀ j < 4, registerByte v j =
          if 3 - k ≤ j then m (j - (3 - k)) else registerByte (s.reg rt) j) ∧
    ((∀ a ∈ rightBytes s.platform.endian ea, s.admitted .load a 1 = true) →
      ∃ v, writesRegister (.lwr rt offset rs) s rt v ∧
        ∀ j < 4, registerByte v j =
          if j ≤ 3 - k then m (j + k) else registerByte (s.reg rt) j)

/-- R128: on a platform that admits every access, the pair of `lwr` and `lwl` loads the four bytes
at any address, in either order of the two instructions and either byte order, and changes nothing
else. Derived: R128 is marked as the spec's derivation. -/
def Obligations.UnalignedLoadIdiom : Prop :=
  ∀ (s : State) (rt rs : Reg) (a v : Word), s.platform.denied = [] → rt ≠ rs →
    a = s.reg rs →
    v = (match s.platform.endian with
      | .little => s.byteAt (a + 3#32) ++ s.byteAt (a + 2#32) ++ s.byteAt (a + 1#32) ++ s.byteAt a
      | .big => s.byteAt a ++ s.byteAt (a + 1#32) ++ s.byteAt (a + 2#32) ++ s.byteAt (a + 3#32)) →
    ∀ first second : Instr,
      (match s.platform.endian with
        | .little => (first = .lwr rt 0#16 rs ∧ second = .lwl rt 3#16 rs) ∨
            (first = .lwl rt 3#16 rs ∧ second = .lwr rt 0#16 rs)
        | .big => (first = .lwl rt 0#16 rs ∧ second = .lwr rt 3#16 rs) ∨
            (first = .lwr rt 3#16 rs ∧ second = .lwl rt 0#16 rs)) →
      ∃ t u, exec first s = .next t ∧ exec second t = .next u ∧
        RegisterEffect s u rt v ∧ u.pc = s.pc + 8#32

/-- R122: the encoding, the register's low byte stored at the effective address, and the address
error where the platform does not admit the access. Derived: the op-code is the spec's own (D27, log
entry 10), admission is D4 (log entry 2). -/
def Obligations.ByteStores : Prop :=
  ∀ (s : State) (rt : Reg) (offset : Imm16) (rs : Reg) (ea : Word),
    ea = s.effectiveAddress rs offset →
    encode (.sb rt offset rs) = (0b101000#6 ++ rs ++ rt ++ offset : Word) ∧
    (s.admitted .store ea 1 = true →
      stores (.sb rt offset rs) s [ea] (fun t => t.byteAt ea = (s.reg rt).extractLsb' 0 8)) ∧
    (s.admitted .store ea 1 = false →
      exec (.sb rt offset rs) s = s.raise (.addressError .store ea))

/-- R123 with R25: the encoding, the register's low halfword stored in either byte order, and the
address error of an odd address. Derived: the op-code is the spec's own (30_encoding.md R46 "GK"; D27,
log entry 10), the byte order is the parameter of D1 (log entry 1). -/
def Obligations.HalfwordStores : Prop :=
  ∀ (s : State) (rt : Reg) (offset : Imm16) (rs : Reg) (ea : Word),
    ea = s.effectiveAddress rs offset →
    encode (.sh rt offset rs) = (0b101001#6 ++ rs ++ rt ++ offset : Word) ∧
    (ea.getLsbD 0 = false → s.admitted .store ea 2 = true →
      stores (.sh rt offset rs) s [ea, ea + 1#32] (fun t =>
        match s.platform.endian with
        | .little => t.byteAt ea = registerByte (s.reg rt) 0 ∧
            t.byteAt (ea + 1#32) = registerByte (s.reg rt) 1
        | .big => t.byteAt ea = registerByte (s.reg rt) 1 ∧
            t.byteAt (ea + 1#32) = registerByte (s.reg rt) 0)) ∧
    (ea.getLsbD 0 = true →
      exec (.sh rt offset rs) s = s.raise (.addressError .store ea))

/-- R124 with R25: the encoding, the register stored in either byte order, and the address error.
Derived: the op-code is the spec's own (D27, log entry 10), the byte order is the parameter of D1
(log entry 1). -/
def Obligations.WordStores : Prop :=
  ∀ (s : State) (rt : Reg) (offset : Imm16) (rs : Reg) (ea : Word),
    ea = s.effectiveAddress rs offset →
    encode (.sw rt offset rs) = (0b101011#6 ++ rs ++ rt ++ offset : Word) ∧
    (ea.extractLsb' 0 2 = 0b00#2 → s.admitted .store ea 4 = true →
      stores (.sw rt offset rs) s [ea, ea + 1#32, ea + 2#32, ea + 3#32] (fun t =>
        ∀ j < 4, registerByte (s.reg rt) j =
          match s.platform.endian with
          | .little => t.byteAt (ea + BitVec.ofNat 32 j)
          | .big => t.byteAt (ea + BitVec.ofNat 32 (3 - j)))) ∧
    (ea.extractLsb' 0 2 ≠ 0b00#2 →
      exec (.sw rt offset rs) s = s.raise (.addressError .store ea))

/-- R125, R126: `swl` stores the register's upper bytes in `m_0..m_k`, `swr` its lower bytes in
`m_k..m_3`; the other bytes of the word, and of memory, are not written. Derived: keeping the other
bytes is D22 (log entry 27), the op-codes D27 (log entry 10), and an access of size 1 for each byte
is the model's choice (log entry 3). -/
def Obligations.PartialWordStores : Prop :=
  ∀ (s : State) (rt : Reg) (offset : Imm16) (rs : Reg) (ea : Word) (k : Nat) (m : Nat → Word),
    ea = s.effectiveAddress rs offset → k = significance s.platform.endian ea →
    (∀ j, m j = significantByte s.platform.endian (alignedWord ea) j) →
    encode (.swl rt offset rs) = (0b101010#6 ++ rs ++ rt ++ offset : Word) ∧
    encode (.swr rt offset rs) = (0b101110#6 ++ rs ++ rt ++ offset : Word) ∧
    ((∀ a ∈ leftBytes s.platform.endian ea, s.admitted .store a 1 = true) →
      stores (.swl rt offset rs) s ((List.range (k + 1)).map m)
        (fun t => ∀ j ≤ k, t.byteAt (m j) = registerByte (s.reg rt) (3 - k + j))) ∧
    ((∀ a ∈ rightBytes s.platform.endian ea, s.admitted .store a 1 = true) →
      stores (.swr rt offset rs) s ((List.range (4 - k)).map (fun j => m (k + j)))
        (fun t => ∀ j < 4, k ≤ j → t.byteAt (m j) = registerByte (s.reg rt) (j - k)))

/-- R129: on a platform that admits every access, the pair of `swr` and `swl` stores a register in
the four bytes at any address, and changes nothing else. Derived: R129 is marked as the spec's
derivation. -/
def Obligations.UnalignedStoreIdiom : Prop :=
  ∀ (s : State) (rt rs : Reg) (a : Word), s.platform.denied = [] → a = s.reg rs →
    match s.platform.endian with
    | .little => ∃ t u, exec (.swr rt 0#16 rs) s = .next t ∧ exec (.swl rt 3#16 rs) t = .next u ∧
        StoreFrame s u [a, a + 1#32, a + 2#32, a + 3#32] ∧ u.pc = s.pc + 8#32 ∧
        ∀ j < 4, u.byteAt (a + BitVec.ofNat 32 j) = registerByte (s.reg rt) j
    | .big => ∃ t u, exec (.swl rt 0#16 rs) s = .next t ∧ exec (.swr rt 3#16 rs) t = .next u ∧
        StoreFrame s u [a, a + 1#32, a + 2#32, a + 3#32] ∧ u.pc = s.pc + 8#32 ∧
        ∀ j < 4, u.byteAt (a + BitVec.ofNat 32 j) = registerByte (s.reg rt) (3 - j)

/-- R31, R39: an access the platform does not admit raises the address error of its kind; for the
partial-word instructions one byte not admitted is enough, and the address recorded is the effective
address (the model's choice, log entry 3). Derived: D4 (log entry 2). -/
def Obligations.AccessesNotAdmittedRaise : Prop :=
  ∀ (s : State) (rt : Reg) (offset : Imm16) (rs : Reg) (ea : Word),
    ea = s.effectiveAddress rs offset →
    (s.admitted .load ea 1 = false →
      ∀ i ∈ [Instr.lb rt offset rs, .lbu rt offset rs],
        exec i s = s.raise (.addressError .load ea)) ∧
    (s.admitted .load ea 2 = false →
      ∀ i ∈ [Instr.lh rt offset rs, .lhu rt offset rs],
        exec i s = s.raise (.addressError .load ea)) ∧
    (s.admitted .load ea 4 = false →
      exec (.lw rt offset rs) s = s.raise (.addressError .load ea)) ∧
    (s.admitted .store ea 1 = false →
      exec (.sb rt offset rs) s = s.raise (.addressError .store ea)) ∧
    (s.admitted .store ea 2 = false →
      exec (.sh rt offset rs) s = s.raise (.addressError .store ea)) ∧
    (s.admitted .store ea 4 = false →
      exec (.sw rt offset rs) s = s.raise (.addressError .store ea)) ∧
    ((∃ a ∈ leftBytes s.platform.endian ea, s.admitted .load a 1 = false) →
      exec (.lwl rt offset rs) s = s.raise (.addressError .load ea)) ∧
    ((∃ a ∈ rightBytes s.platform.endian ea, s.admitted .load a 1 = false) →
      exec (.lwr rt offset rs) s = s.raise (.addressError .load ea)) ∧
    ((∃ a ∈ leftBytes s.platform.endian ea, s.admitted .store a 1 = false) →
      exec (.swl rt offset rs) s = s.raise (.addressError .store ea)) ∧
    ((∃ a ∈ rightBytes s.platform.endian ea, s.admitted .store a 1 = false) →
      exec (.swr rt offset rs) s = s.raise (.addressError .store ea))

/-- R25: what was written is read back, in either byte order and at every address, and no other byte
changes. Derived: it leaves out which byte is where (D1), which the loads and stores say. -/
def Obligations.MemoryReadsBackWhatWasWritten : Prop :=
  ∀ (s : State) (a : Word) (b : Byte) (h : Half) (w : Word),
    (s.writeByte a b).byteAt a = b ∧
    (s.writeHalf a h).readHalf a = h ∧
    (s.writeWord a w).readWord a = w ∧
    ∀ c : Word,
      (c ≠ a → (s.writeByte a b).byteAt c = s.byteAt c) ∧
      (c ∉ [a, a + 1#32] → (s.writeHalf a h).byteAt c = s.byteAt c) ∧
      (c ∉ [a, a + 1#32, a + 2#32, a + 3#32] → (s.writeWord a w).byteAt c = s.byteAt c)

/-! The system call and exceptions (45_system.md, 60_exceptions.md). -/

/-- R130, R143: the encoding; with the terminal environment the outcome is `Trap(Syscall, epc)`;
with a resuming one the run goes on at `epc + 4`. Derived: D7 (log entries 4, 16), and the word is
the spec's own (D23, D27; log entries 10, 17). -/
def Obligations.SyscallTrapsToTheEnvironment : Prop :=
  ∀ s : State,
    encode .syscall = 0x0000000C#32 ∧
    (s.platform.environment = .terminal → exec .syscall s = .fault (.syscall s.pc)) ∧
    (s.platform.environment = .resuming →
      ∃ t, exec .syscall s = .next t ∧ t.pc = s.pc + 4#32 ∧ t.platform = s.platform ∧
        t.reg 0#5 = 0#32)

/-- R141, R143: taking an exception ends the run with the trap outcome that records the address of
the instruction; or, with a resuming environment, gives that environment the trapped state and goes
on with the registers, HI, LO and bytes of memory it answers, after `syscall` at `epc + 4`. Every byte
of memory is the last one that the answer stores at its address, and where it stores none, what it
was. Derived: the trap is the spec's decision D7, and the form of the answer is the model's choice
(log entries 4, 16). -/
def Obligations.TakingAnException : Prop :=
  ∀ (s : State) (e : Exception),
    (s.platform.environment = .terminal →
      s.raise e = .fault (match e with
        | .overflow => .overflow s.pc
        | .addressError kind addr => .addressError s.pc kind addr
        | .syscall => .syscall s.pc
        | .reservedInstruction w => .reservedInstruction s.pc w)) ∧
    (s.platform.environment = .resuming →
      ∃ t r, s.raise e = .next t ∧ r = Config.environment { exception := e, epc := s.pc } s ∧
        t.pc = (if e = .syscall then s.pc + 4#32 else r.pc) ∧
        t.regs = r.regs ∧ t.hi = r.hi ∧ t.lo = r.lo ∧
        (∀ a, t.byteAt a = (s.writeCells r.stores).byteAt a) ∧
        (∀ a, t.byteAt a = (r.stores.reverse.lookup a).getD (s.byteAt a)) ∧
        t.platform = s.platform)

/-- R132, R141: a step never refuses; a step that stops has the terminal environment and records the
address of the instruction that raised. Derived: the trap is the spec's decision D7 (log entry 16).
-/
def Obligations.StepsStopOnlyByATrapAtPc : Prop :=
  ∀ s : State,
    (∀ r, step s ≠ .refused r) ∧
    (∀ f, step s = .fault f → f.epc = s.pc ∧ s.platform.environment = .terminal)

/-- R132: "No other instruction of the 57 raises anything": on a platform that admits every access
the others always complete. Derived: of R132 this is that sentence. -/
def Obligations.OnlyListedInstructionsRaise : Prop :=
  ∀ (i : Instr) (s : State), s.platform.denied = [] → ¬ canRaise i → ∃ t, exec i s = .next t

/-! The whole machine (10_state.md). -/

/-- R14: where the bytes at an aligned and admitted `pc` decode to an instruction, the step runs
that instruction. Derived: of R14 this is steps 3 to 7 where nothing before them raises. -/
def Obligations.StepRunsTheDecodedInstruction : Prop :=
  ∀ (s : State) (i : Instr), s.pcAligned → s.admitted .fetch s.pc 4 = true →
    decode (s.readWord s.pc) = .ok i → step s = exec i s

/-- R14, R28, R50, R139: what fetch and decode raise, and in which order. Derived: D8, D10, D25 (log
entries 17, 18, 30); which words are no instruction rests on D27 too (log entry 10). -/
def Obligations.FetchExceptionsAndTheirPriority : Prop :=
  ∀ s : State,
    (¬ s.pcAligned → step s = s.raise (.addressError .fetch s.pc)) ∧
    (s.pcAligned → s.admitted .fetch s.pc 4 = false →
      step s = s.raise (.addressError .fetch s.pc)) ∧
    (s.pcAligned → s.admitted .fetch s.pc 4 = true → wellFormed (s.readWord s.pc) = false →
      step s = s.raise (.reservedInstruction (s.readWord s.pc)))

/-- R36: a word stored in memory is the instruction that a later fetch from there gives. Derived:
D15 (log entry 22). The second part says it of the model's `withFetchWord`. -/
def Obligations.StoredInstructionsAreFetched : Prop :=
  ∀ (s : State) (a : Word) (i : Instr), a.extractLsb' 0 2 = 0b00#2 →
    s.admitted .fetch a 4 = true →
    fetch ((s.writeWord a (encode i)).goto a) = .ok i ∧
    (s.pc = a → step (s.withFetchWord 32 (encode i).toNat) =
      exec i (s.withFetchWord 32 (encode i).toNat))

/-- R11, R22: an instruction writes no general register but its destination, and one whose
destination is register 0, or that has none, writes none. Derived: R22 is marked as the spec's
derivation, and register 0 is D2 (log entry 11). -/
def Obligations.OnlyTheDestinationRegisterChanges : Prop :=
  ∀ (i : Instr) (s t : State), s.platform.environment = .terminal → exec i s = .next t →
    (∀ r : Reg, destination i ≠ some r → t.reg r = s.reg r) ∧
    (destination i = some 0#5 → ∀ r : Reg, t.reg r = s.reg r)

/-- R22: only the five stores write memory. Derived: R22 is marked as the spec's derivation. -/
def Obligations.OnlyStoresChangeMemory : Prop :=
  ∀ (i : Instr) (s t : State), s.platform.environment = .terminal → exec i s = .next t →
    ¬ isStore i → ∀ a : Word, t.byteAt a = s.byteAt a

/-- R24: the byte order, and with it every parameter of the platform, is fixed for a whole run.
Derived: the platform in the state is the model's choice (log entries 1, 2, 4). -/
def Obligations.StepsKeepThePlatform : Prop :=
  ∀ s t : State, step s = .next t → t.platform = s.platform

/-- The memory's canonical form (the model's representation, log entry 8) is kept by every step. -/
def Obligations.StepsKeepMemoryCanonical : Prop :=
  ∀ s t : State, s.Inv → step s = .next t → t.Inv

/-- R21, R150: what the spec gives for reset: register 0 is 0 and `pc` is a multiple of 4; and the
parameters at the defaults of R4. The canonical form holds. Derived: D9; the defaults are R4's, the
canonical form is the model's choice (log entry 8). -/
def Obligations.ResetState : Prop :=
  State.reset.reg 0#5 = 0#32 ∧ State.reset.pcAligned ∧
    State.reset.platform = { endian := .little, denied := [], environment := .terminal } ∧
    State.reset.Inv

/-! Encoding (30_encoding.md). -/

/-- R46 to R49, R51: the decoder gives back every instruction from its word. Derived: the encodings
rest on D27 (log entry 10). -/
def Obligations.DecodeAfterEncode : Prop :=
  ∀ i : Instr, decode (encode i) = .ok i

/-- R49, R51: a word that decodes is the word of the instruction it decodes to, so no bit of it is
ignored. Derived: strict fields are D8 (log entry 17), and the encodings rest on D27 (log entry 10).
-/
def Obligations.EncodeAfterDecode : Prop :=
  ∀ (w : Word) (i : Instr), decode w = .ok i → encode i = w

/-- R50, R51: a word decodes exactly when some row of the opcode table selects it, and the row that
selects it has the mnemonic of the instruction it decodes to. Derived: the table is
spec/opcode_table.json's, which rests on D27 and D8 (log entries 10, 17), and R51 marks its
disjointness as derived. -/
def Obligations.DecoderAgreesWithTheOpcodeTable : Prop :=
  opcodeTable.length = 57 ∧ (opcodeTable.map (·.mnemonic)).Nodup ∧
  ∀ w : Word,
    ((∃ i, decode w = .ok i) ↔ wellFormed w = true) ∧
    ∀ i, decode w = .ok i →
      ∀ row ∈ opcodeTable, row.selects w = true ↔ row.mnemonic = i.mnemonic

/-- R25, R27, R40: the bytes of an instruction, in either byte order and followed by anything,
decode to that instruction and leave the rest. Derived: fetch in the byte order of data is D19 (log
entry 25). -/
def Obligations.InstructionBytesDecode : Prop :=
  ∀ (e : Endian) (i : Instr) (rest : List Byte),
    decodeBytes e (encodeBytes e i ++ rest) = .ok (i, rest)

/-- R46 to R50: words written out from the spec's encodings, one of each family, and words that are
no instruction. Derived: some of the words rest on D27 and D8 (log entries 10, 17). -/
def Obligations.SampleWordsDecode : Prop :=
  decode 0b000000_00001_00010_00011_00000_100000#32 = .ok (.add 3#5 1#5 2#5) ∧
  decode 0b000000_00000_00010_00011_00100_000000#32 = .ok (.sll 3#5 2#5 4#5) ∧
  decode 0b000000_00001_00010_00000_00000_011010#32 = .ok (.div 1#5 2#5) ∧
  decode 0b000001_00001_10001_0000000000000100#32 = .ok (.bgezal 1#5 4#16) ∧
  decode 0b000010_00000100000000000000000100#32 = .ok (.j 0x0100004#26) ∧
  decode 0b101011_00001_00010_1111111111111100#32 = .ok (.sw 2#5 0xFFFC#16 1#5) ∧
  decode 0b000000_00000_00000_00000_00000_001100#32 = .ok .syscall ∧
  decode 0b000000_00001_00010_00011_00001_100001#32 = .error .zeroField ∧
  decode 0b000000_00000_00000_00000_00000_000001#32 = .error .funct ∧
  decode 0b000001_00000_00010_0000000000000000#32 = .error .code ∧
  decode 0b010000_00000_00000_00000_00000_000000#32 = .error .opcode

/-! Assembly (30_encoding.md R53, R54, R55). -/

/-- R54: a branch or a jump assembled for a label goes to the label. Derived: D5 (log entry 13) and
D24 (log entry 29). -/
def Obligations.AssembledTargetsReachTheirLabels : Prop :=
  ∀ (s : State) (l : Word),
    (∀ imm, branchImmediate s.pc l = some imm → s.branchTarget imm = l) ∧
    (∀ imm, jumpImmediate s.pc l = some imm → s.jumpTarget imm = l)

/-- R53: the two instructions of `la` leave the label's address in the register, unless that is
register 0, and change no other register, HI, LO or memory. Derived: R53 marks the expansion as its
own derivation. -/
def Obligations.LoadAddressBuildsTheAddress : Prop :=
  ∀ (s : State) (rt : Reg) (a : Word),
    ∃ i j t u, loadAddress rt a = [i, j] ∧ exec i s = .next t ∧ exec j t = .next u ∧
      RegisterEffect s u rt a ∧ u.pc = s.pc + 8#32

/-- R55: the all-zero word is `nop`, and only advances `pc`. Derived: R55 is marked as the spec's
derivation. -/
def Obligations.NopOnlyAdvancesPc : Prop :=
  encode nop = 0x00000000#32 ∧ ∀ s : State, exec nop s = .next s.advance
end

