-- ==== Sys2Proof/Laws/Memory.lean ====
section
/-! SUPPORT. The laws of memory: a read after a write, and that every operation keeps the canonical
form. -/

namespace Sys2Proof.Machine

@[simp] theorem Memory.read_nil (a : Nat) : Memory.read [] a = Config.unlistedByte := rfl

theorem Memory.read_cons (b : Nat) (v : Byte) (m : Memory) (a : Nat) :
    Memory.read ((b, v) :: m) a = if b = a then v else Memory.read m a := rfl

theorem Memory.read_erase (m : Memory) (a b : Nat) :
    (m.erase a).read b = if b = a then Config.unlistedByte else m.read b := by
  unfold Memory.erase
  induction m with
  | nil => simp
  | cons c m ih =>
    obtain ⟨x, v⟩ := c
    by_cases hx : x = a
    · subst hx
      rw [List.filter_cons_of_neg (by simp), ih, Memory.read_cons]
      by_cases hb : b = x
      · simp [hb]
      · simp [hb, Ne.symm hb]
    · rw [List.filter_cons_of_pos (by simpa using hx), Memory.read_cons, Memory.read_cons, ih]
      by_cases hb : b = a
      · simp [hb, hx]
      · simp [hb]

theorem Memory.read_insert_erase (m : Memory) (a : Nat) (v : Byte) (b : Nat) :
    ((m.erase a).insert a v).read b = if b = a then v else m.read b := by
  have key : ∀ l : Memory, (∀ c ∈ l, c.1 ≠ a) →
      (Memory.insert l a v).read b = if b = a then v else Memory.read l b := by
    intro l
    induction l with
    | nil => intro _; simp [Memory.insert, Memory.read_cons, eq_comm]
    | cons c l ih =>
      intro hl
      obtain ⟨x, u⟩ := c
      have hx : x ≠ a := hl (x, u) (by simp)
      have ih := ih (fun c hc => hl c (by simp [hc]))
      unfold Memory.insert
      split
      · rw [Memory.read_cons]; simp only [eq_comm]
      · by_cases h : b = a
        · subst h; simp [Memory.read_cons, hx, ih]
        · simp [Memory.read_cons, h, ih]
  rw [key _ (by simp [Memory.erase]), Memory.read_erase]
  by_cases h : b = a <;> simp [h]

/-- A read after a write: the written byte where it was written, the old byte elsewhere. -/
theorem Memory.read_write (m : Memory) (a : Nat) (v : Byte) (b : Nat) :
    (m.write a v).read b = if b = a then v else m.read b := by
  unfold Memory.write
  split
  · next h => subst h; exact Memory.read_erase m a b
  · exact Memory.read_insert_erase m a v b

theorem Memory.wf_erase {m : Memory} (h : m.wf) (a : Nat) : (m.erase a).wf := by
  unfold Memory.erase
  exact ⟨h.1.filter _, fun c hc => h.2 c (List.mem_filter.mp hc).1⟩

theorem Memory.mem_insert {m : Memory} {a : Nat} {v : Byte} {c : Host.Cell} :
    c ∈ m.insert a v ↔ c = (a, v) ∨ c ∈ m := by
  induction m with
  | nil => simp [Memory.insert]
  | cons d m ih =>
    obtain ⟨x, u⟩ := d
    unfold Memory.insert
    split
    · simp
    · rw [List.mem_cons, ih]; simp only [List.mem_cons]; tauto

theorem Memory.wf_insert {m : Memory} (h : m.wf) {a : Nat} {v : Byte} (ha : a < 2 ^ 32)
    (hv : v ≠ Config.unlistedByte) (hm : ∀ c ∈ m, c.1 ≠ a) : (m.insert a v).wf := by
  constructor
  · have hs := h.1
    clear h
    induction m with
    | nil => simp [Memory.insert]
    | cons d m ih =>
      obtain ⟨x, u⟩ := d
      rw [List.pairwise_cons] at hs
      unfold Memory.insert
      split
      · next hlt =>
        refine List.pairwise_cons.mpr ⟨?_, List.pairwise_cons.mpr hs⟩
        intro c hc
        rcases List.mem_cons.mp hc with rfl | hc
        · exact hlt
        · exact Nat.lt_trans hlt (hs.1 c hc)
      · next hge =>
        refine List.pairwise_cons.mpr ⟨?_, ih (fun c hc => hm c (by simp [hc])) hs.2⟩
        intro c hc
        have hx : x ≠ a := hm (x, u) (by simp)
        rcases Memory.mem_insert.mp hc with rfl | hc
        · show x < a; omega
        · exact hs.1 c hc
  · intro c hc
    rcases Memory.mem_insert.mp hc with rfl | hc
    · exact ⟨ha, hv⟩
    · exact h.2 c hc

/-- A write keeps the canonical form. -/
theorem Memory.wf_write {m : Memory} (h : m.wf) {a : Nat} (ha : a < 2 ^ 32) (v : Byte) :
    (m.write a v).wf := by
  unfold Memory.write
  split
  · exact Memory.wf_erase h a
  · next hv => exact Memory.wf_insert (Memory.wf_erase h a) ha hv (by simp [Memory.erase])

theorem Memory.wf_nil : Memory.wf [] := by simp [Memory.wf]

end Sys2Proof.Machine
end

