-- ==== Sys2Proof/Laws/State.lean ====
section
/-! SUPPORT. One lemma per field per update of the state, so that no later proof unfolds a record
update, and what a register or a byte reads as after each update. -/

namespace Sys2Proof.Machine

@[simp] theorem State.setHi_pc (s : State) (v : Word) :
    (s.setHi v).pc = s.pc := rfl

@[simp] theorem State.setHi_regs (s : State) (v : Word) :
    (s.setHi v).regs = s.regs := rfl

@[simp] theorem State.setHi_hi (s : State) (v : Word) :
    (s.setHi v).hi = v := rfl

@[simp] theorem State.setHi_lo (s : State) (v : Word) :
    (s.setHi v).lo = s.lo := rfl

@[simp] theorem State.setHi_mem (s : State) (v : Word) :
    (s.setHi v).mem = s.mem := rfl

@[simp] theorem State.setHi_platform (s : State) (v : Word) :
    (s.setHi v).platform = s.platform := rfl

@[simp] theorem State.setLo_pc (s : State) (v : Word) :
    (s.setLo v).pc = s.pc := rfl

@[simp] theorem State.setLo_regs (s : State) (v : Word) :
    (s.setLo v).regs = s.regs := rfl

@[simp] theorem State.setLo_hi (s : State) (v : Word) :
    (s.setLo v).hi = s.hi := rfl

@[simp] theorem State.setLo_lo (s : State) (v : Word) :
    (s.setLo v).lo = v := rfl

@[simp] theorem State.setLo_mem (s : State) (v : Word) :
    (s.setLo v).mem = s.mem := rfl

@[simp] theorem State.setLo_platform (s : State) (v : Word) :
    (s.setLo v).platform = s.platform := rfl

@[simp] theorem State.goto_pc (s : State) (t : Word) :
    (s.goto t).pc = t := rfl

@[simp] theorem State.goto_regs (s : State) (t : Word) :
    (s.goto t).regs = s.regs := rfl

@[simp] theorem State.goto_hi (s : State) (t : Word) :
    (s.goto t).hi = s.hi := rfl

@[simp] theorem State.goto_lo (s : State) (t : Word) :
    (s.goto t).lo = s.lo := rfl

@[simp] theorem State.goto_mem (s : State) (t : Word) :
    (s.goto t).mem = s.mem := rfl

@[simp] theorem State.goto_platform (s : State) (t : Word) :
    (s.goto t).platform = s.platform := rfl

@[simp] theorem State.advance_pc (s : State) :
    (s.advance).pc = s.pc + 4#32 := rfl

@[simp] theorem State.advance_regs (s : State) :
    (s.advance).regs = s.regs := rfl

@[simp] theorem State.advance_hi (s : State) :
    (s.advance).hi = s.hi := rfl

@[simp] theorem State.advance_lo (s : State) :
    (s.advance).lo = s.lo := rfl

@[simp] theorem State.advance_mem (s : State) :
    (s.advance).mem = s.mem := rfl

@[simp] theorem State.advance_platform (s : State) :
    (s.advance).platform = s.platform := rfl

@[simp] theorem State.writeByte_pc (s : State) (a : Word) (v : Byte) :
    (s.writeByte a v).pc = s.pc := rfl

@[simp] theorem State.writeByte_regs (s : State) (a : Word) (v : Byte) :
    (s.writeByte a v).regs = s.regs := rfl

@[simp] theorem State.writeByte_hi (s : State) (a : Word) (v : Byte) :
    (s.writeByte a v).hi = s.hi := rfl

@[simp] theorem State.writeByte_lo (s : State) (a : Word) (v : Byte) :
    (s.writeByte a v).lo = s.lo := rfl

@[simp] theorem State.writeByte_mem (s : State) (a : Word) (v : Byte) :
    (s.writeByte a v).mem = s.mem.write a.toNat v := rfl

@[simp] theorem State.writeByte_platform (s : State) (a : Word) (v : Byte) :
    (s.writeByte a v).platform = s.platform := rfl

@[simp] theorem State.setReg_pc (s : State) (r : Reg) (v : Word) :
    (s.setReg r v).pc = s.pc := by
  unfold State.setReg; split <;> rfl

@[simp] theorem State.setReg_hi (s : State) (r : Reg) (v : Word) :
    (s.setReg r v).hi = s.hi := by
  unfold State.setReg; split <;> rfl

@[simp] theorem State.setReg_lo (s : State) (r : Reg) (v : Word) :
    (s.setReg r v).lo = s.lo := by
  unfold State.setReg; split <;> rfl

@[simp] theorem State.setReg_mem (s : State) (r : Reg) (v : Word) :
    (s.setReg r v).mem = s.mem := by
  unfold State.setReg; split <;> rfl

@[simp] theorem State.setReg_platform (s : State) (r : Reg) (v : Word) :
    (s.setReg r v).platform = s.platform := by
  unfold State.setReg; split <;> rfl

@[simp] theorem State.writeBytes_pc (s : State) (a : Word) (bs : List Byte) :
    (s.writeBytes a bs).pc = s.pc := by
  induction bs generalizing s a with
  | nil => rfl
  | cons b bs ih => exact ih _ _

@[simp] theorem State.writeBytes_regs (s : State) (a : Word) (bs : List Byte) :
    (s.writeBytes a bs).regs = s.regs := by
  induction bs generalizing s a with
  | nil => rfl
  | cons b bs ih => exact ih _ _

@[simp] theorem State.writeBytes_hi (s : State) (a : Word) (bs : List Byte) :
    (s.writeBytes a bs).hi = s.hi := by
  induction bs generalizing s a with
  | nil => rfl
  | cons b bs ih => exact ih _ _

@[simp] theorem State.writeBytes_lo (s : State) (a : Word) (bs : List Byte) :
    (s.writeBytes a bs).lo = s.lo := by
  induction bs generalizing s a with
  | nil => rfl
  | cons b bs ih => exact ih _ _

@[simp] theorem State.writeBytes_platform (s : State) (a : Word) (bs : List Byte) :
    (s.writeBytes a bs).platform = s.platform := by
  induction bs generalizing s a with
  | nil => rfl
  | cons b bs ih => exact ih _ _

@[simp] theorem State.writeCells_pc (s : State) (cs : List (Word × Byte)) :
    (s.writeCells cs).pc = s.pc := by
  induction cs generalizing s with
  | nil => rfl
  | cons b cs ih => exact ih _

@[simp] theorem State.writeCells_regs (s : State) (cs : List (Word × Byte)) :
    (s.writeCells cs).regs = s.regs := by
  induction cs generalizing s with
  | nil => rfl
  | cons b cs ih => exact ih _

@[simp] theorem State.writeCells_hi (s : State) (cs : List (Word × Byte)) :
    (s.writeCells cs).hi = s.hi := by
  induction cs generalizing s with
  | nil => rfl
  | cons b cs ih => exact ih _

@[simp] theorem State.writeCells_lo (s : State) (cs : List (Word × Byte)) :
    (s.writeCells cs).lo = s.lo := by
  induction cs generalizing s with
  | nil => rfl
  | cons b cs ih => exact ih _

@[simp] theorem State.writeCells_platform (s : State) (cs : List (Word × Byte)) :
    (s.writeCells cs).platform = s.platform := by
  induction cs generalizing s with
  | nil => rfl
  | cons b cs ih => exact ih _

theorem State.npc_eq (s : State) : s.npc = s.pc + 4#32 := rfl

/-! Registers. -/

@[simp] theorem State.reg_zero (s : State) : s.reg 0#5 = 0#32 := rfl

/-- Reading a register depends on the register file alone. -/
theorem State.reg_congr {s t : State} (h : t.regs = s.regs) (r : Reg) : t.reg r = s.reg r := by
  unfold State.reg; simp only [h]

/-- What a register reads as after a register write (10_state.md R11). -/
theorem State.reg_setReg (s : State) (rd : Reg) (v : Word) (r : Reg) :
    (s.setReg rd v).reg r = if r = rd ∧ rd ≠ 0#5 then v else s.reg r := by
  by_cases h0 : rd = 0#5
  · simp [State.setReg, h0]
  · by_cases hr : r = 0#5
    · subst hr; simp [State.reg, Ne.symm h0]
    · have hne : ∀ x : Reg, x ≠ 0#5 → x.toNat ≠ 0 := by
        intro x hx h; exact hx (BitVec.eq_of_toNat_eq (by simpa using h))
      have h1 := hne r hr
      have h2 := hne rd h0
      by_cases hrd : r = rd
      · subst hrd; simp [State.setReg, State.reg, h0]
      · have h3 : rd.toNat - 1 ≠ r.toNat - 1 := by
          intro h; exact hrd (BitVec.eq_of_toNat_eq (by omega))
        simp [State.setReg, State.reg, h0, hr, hrd, h3]

/-- Writing register 0 changes nothing (10_state.md R11). -/
@[simp] theorem State.setReg_zero (s : State) (v : Word) : s.setReg 0#5 v = s := by
  simp [State.setReg]

@[simp] theorem State.setHi_reg (s : State) (v : Word) (r : Reg) : (s.setHi v).reg r = s.reg r := rfl
@[simp] theorem State.setLo_reg (s : State) (v : Word) (r : Reg) : (s.setLo v).reg r = s.reg r := rfl
@[simp] theorem State.goto_reg (s : State) (t : Word) (r : Reg) : (s.goto t).reg r = s.reg r := rfl
@[simp] theorem State.advance_reg (s : State) (r : Reg) : s.advance.reg r = s.reg r := rfl
@[simp] theorem State.writeByte_reg (s : State) (a : Word) (v : Byte) (r : Reg) :
    (s.writeByte a v).reg r = s.reg r := rfl
@[simp] theorem State.writeBytes_reg (s : State) (a : Word) (bs : List Byte) (r : Reg) :
    (s.writeBytes a bs).reg r = s.reg r := State.reg_congr (by simp) r
@[simp] theorem State.writeCells_reg (s : State) (cs : List (Word × Byte)) (r : Reg) :
    (s.writeCells cs).reg r = s.reg r := State.reg_congr (by simp) r

/-! Memory. -/

/-- Reading a byte depends on memory alone. -/
theorem State.byteAt_congr {s t : State} (h : t.mem = s.mem) (a : Word) :
    t.byteAt a = s.byteAt a := by
  unfold State.byteAt; rw [h]

@[simp] theorem State.setReg_byteAt (s : State) (r : Reg) (v a : Word) :
    (s.setReg r v).byteAt a = s.byteAt a := State.byteAt_congr (by simp) a
@[simp] theorem State.setHi_byteAt (s : State) (v a : Word) : (s.setHi v).byteAt a = s.byteAt a := rfl
@[simp] theorem State.setLo_byteAt (s : State) (v a : Word) : (s.setLo v).byteAt a = s.byteAt a := rfl
@[simp] theorem State.goto_byteAt (s : State) (t a : Word) : (s.goto t).byteAt a = s.byteAt a := rfl
@[simp] theorem State.advance_byteAt (s : State) (a : Word) : s.advance.byteAt a = s.byteAt a := rfl

/-- What a byte reads as after one byte is stored. -/
theorem State.byteAt_writeByte (s : State) (a : Word) (v : Byte) (b : Word) :
    (s.writeByte a v).byteAt b = if b = a then v else s.byteAt b := by
  unfold State.byteAt
  rw [State.writeByte_mem, Memory.read_write]
  by_cases h : b = a
  · simp [h]
  · have h2 : b.toNat ≠ a.toNat := fun hh => h (BitVec.eq_of_toNat_eq hh)
    simp [h, h2]

/-- Bytes that no cell names are unchanged. -/
theorem State.byteAt_writeCells_of_notMem (s : State) (cs : List (Word × Byte)) (b : Word)
    (h : b ∉ cs.map Prod.fst) : (s.writeCells cs).byteAt b = s.byteAt b := by
  induction cs generalizing s with
  | nil => rfl
  | cons c cs ih =>
    simp only [List.map_cons, List.mem_cons, not_or] at h
    rw [State.writeCells, ih _ h.2, State.byteAt_writeByte, if_neg h.1]

/-- What every byte reads as after cells are stored in order: the last one stored at its address. -/
theorem State.byteAt_writeCells (s : State) (cs : List (Word × Byte)) (b : Word) :
    (s.writeCells cs).byteAt b = (cs.reverse.lookup b).getD (s.byteAt b) := by
  induction cs generalizing s with
  | nil => rfl
  | cons c cs ih =>
    rw [State.writeCells, ih, State.byteAt_writeByte, List.reverse_cons, List.lookup_append]
    obtain ⟨a, v⟩ := c
    by_cases h : b = a
    · cases cs.reverse.lookup b <;> simp [h, List.lookup]
    · have hb : (b == a) = false := by simp [h]
      cases cs.reverse.lookup b <;> simp [h, hb, List.lookup]

/-! The canonical form of memory is kept. -/

theorem State.writeByte_wf {s : State} (h : s.mem.wf) (a : Word) (v : Byte) :
    (s.writeByte a v).mem.wf :=
  Memory.wf_write h a.isLt v

theorem State.writeBytes_wf {s : State} (h : s.mem.wf) (a : Word) (bs : List Byte) :
    (s.writeBytes a bs).mem.wf := by
  induction bs generalizing s a with
  | nil => exact h
  | cons b bs ih => exact ih (State.writeByte_wf h a b) _

theorem State.writeHalf_wf {s : State} (h : s.mem.wf) (a : Word) (v : Half) :
    (s.writeHalf a v).mem.wf := State.writeBytes_wf h a _

theorem State.writeWord_wf {s : State} (h : s.mem.wf) (a : Word) (v : Word) :
    (s.writeWord a v).mem.wf := State.writeBytes_wf h a _

theorem State.writeCells_wf {s : State} (h : s.mem.wf) (cs : List (Word × Byte)) :
    (s.writeCells cs).mem.wf := by
  induction cs generalizing s with
  | nil => exact h
  | cons c cs ih => exact ih (State.writeByte_wf h c.1 c.2)

end Sys2Proof.Machine
end

