-- ==== Sys2Proof/Laws/Operands.lean ====
section
/-! SUPPORT. The operand operations in terms of `BitVec` arithmetic: exact integers, then the low 32
bits (00_scope.md R6), are modular arithmetic. -/

namespace Sys2Proof.Machine

@[simp] theorem trunc32_uval (a : Word) : trunc32 (uval a) = a := by
  simp [trunc32, uval]

@[simp] theorem trunc32_sval (a : Word) : trunc32 (sval a) = a := by
  simp [trunc32, sval]

theorem trunc32_add (m n : Int) : trunc32 (m + n) = trunc32 m + trunc32 n :=
  BitVec.ofInt_add m n

theorem trunc32_mul (m n : Int) : trunc32 (m * n) = trunc32 m * trunc32 n :=
  BitVec.ofInt_mul m n

theorem trunc32_sub (m n : Int) : trunc32 (m - n) = trunc32 m - trunc32 n := by
  rw [BitVec.sub_eq_add_neg, Int.sub_eq_add_neg, trunc32_add]
  congr 1
  exact BitVec.ofInt_neg

/-- The effective address is a modular sum (44_load_store.md R113). -/
theorem State.effectiveAddress_eq (s : State) (rs : Reg) (offset : Imm16) :
    s.effectiveAddress rs offset = s.reg rs + sext16 offset := by
  simp [State.effectiveAddress, trunc32_add]

/-- The branch target is a modular sum (43_branch_jump.md R97). -/
theorem State.branchTarget_eq (s : State) (imm : Imm16) :
    s.branchTarget imm = s.pc + 4#32 + sext16 imm * 4#32 := by
  rw [State.branchTarget, trunc32_add, trunc32_mul, trunc32_uval, trunc32_sval, State.npc_eq]
  rfl

@[simp] theorem fixedCount_eq (sa : Shamt) : fixedCount sa = sa.toNat := rfl

/-- The count of a variable shift is the register modulo 32 (41_shift.md R80). -/
theorem variableCount_eq (v : Word) : variableCount v = v.toNat % 32 := by
  simp [variableCount]

/-- The significance index is at most 3 (44_load_store.md R127). -/
theorem significance_le (e : Endian) (ea : Word) : significance e ea ≤ 3 := by
  have h := (ea.extractLsb' 0 2).isLt
  cases e <;> simp only [significance] <;> omega

end Sys2Proof.Machine
end

