-- ==== Sys2Proof/Laws/Ops.lean ====
section
/-! SUPPORT. One lemma per shared operation that says once everything it can answer. -/

namespace Sys2Proof.Machine

/-! Taking an exception, and the return from one. -/

/-- With the terminal environment an exception is the end of the run (60_exceptions.md R141). -/
theorem State.raise_terminal {s : State} (h : s.platform.environment = .terminal) (e : Exception) :
    s.raise e = .fault (e.fault s.pc) := by
  unfold State.raise; rw [h]

/-- With a resuming environment an exception's next state is the environment's (R143). -/
theorem State.raise_resuming {s : State} (h : s.platform.environment = .resuming) (e : Exception) :
    s.raise e = .next (s.resume ⟨e, s.pc⟩) := by
  unfold State.raise; rw [h]

/-- Everything that taking an exception can answer. -/
theorem State.raise_cases (s : State) (e : Exception) :
    (s.platform.environment = .terminal ∧ s.raise e = .fault (e.fault s.pc)) ∨
    (s.platform.environment = .resuming ∧ s.raise e = .next (s.resume ⟨e, s.pc⟩)) := by
  cases h : s.platform.environment with
  | terminal => exact .inl ⟨rfl, State.raise_terminal h e⟩
  | resuming => exact .inr ⟨rfl, State.raise_resuming h e⟩

@[simp] theorem State.resume_platform (s : State) (t : Trap) :
    (s.resume t).platform = s.platform := by
  simp [State.resume]

@[simp] theorem State.resume_pc (s : State) (t : Trap) :
    (s.resume t).pc = t.resumePc (Config.environment t s) := rfl

@[simp] theorem State.resume_regs (s : State) (t : Trap) :
    (s.resume t).regs = (Config.environment t s).regs := rfl

@[simp] theorem State.resume_hi (s : State) (t : Trap) :
    (s.resume t).hi = (Config.environment t s).hi := rfl

@[simp] theorem State.resume_lo (s : State) (t : Trap) :
    (s.resume t).lo = (Config.environment t s).lo := rfl

/-- The memory after a resumption is the trapped state's with the environment's bytes stored; what
each byte then reads as is `State.byteAt_writeCells`. -/
theorem State.resume_byteAt (s : State) (t : Trap) (a : Word) :
    (s.resume t).byteAt a = (s.writeCells (Config.environment t s).stores).byteAt a := rfl

theorem State.resume_wf {s : State} (h : s.mem.wf) (t : Trap) : (s.resume t).mem.wf :=
  State.writeCells_wf h _

/-! Accesses. -/

/-- An aligned, admitted access is made. -/
theorem State.access_done {s : State} {kind : AccessKind} {a : Word} {n : Nat}
    (halign : a.toNat % n = 0) (hadm : s.admitted kind a n = true) (done : State) :
    s.access kind a n done = .next done := by
  simp [State.access, halign, hadm]

/-- A misaligned access raises (20_memory.md R26). -/
theorem State.access_misaligned {s : State} {kind : AccessKind} {a : Word} {n : Nat}
    (h : a.toNat % n ≠ 0) (done : State) :
    s.access kind a n done = s.raise (.addressError kind a) := by
  simp [State.access, h]

/-- An access that is not admitted raises (20_memory.md R31). -/
theorem State.access_denied {s : State} {kind : AccessKind} {a : Word} {n : Nat}
    (h : s.admitted kind a n = false) (done : State) :
    s.access kind a n done = s.raise (.addressError kind a) := by
  unfold State.access; split <;> simp [h]

/-- Everything an access can answer. -/
theorem State.access_cases (s : State) (kind : AccessKind) (a : Word) (n : Nat) (done : State) :
    (a.toNat % n = 0 ∧ s.admitted kind a n = true ∧ s.access kind a n done = .next done) ∨
    ((a.toNat % n ≠ 0 ∨ s.admitted kind a n = false) ∧
      s.access kind a n done = s.raise (.addressError kind a)) := by
  by_cases h : a.toNat % n = 0
  · cases hadm : s.admitted kind a n with
    | true => exact .inl ⟨h, rfl, State.access_done h hadm done⟩
    | false => exact .inr ⟨.inr rfl, State.access_denied hadm done⟩
  · exact .inr ⟨.inl h, State.access_misaligned h done⟩

/-- Single-byte accesses that are all admitted are made. -/
theorem State.accessBytes_done {s : State} {kind : AccessKind} {ea : Word} {addrs : List Word}
    (h : ∀ a ∈ addrs, s.admitted kind a 1 = true) (done : State) :
    s.accessBytes kind ea addrs done = .next done := by
  unfold State.accessBytes; rw [if_pos (List.all_eq_true.mpr h)]

/-- Single-byte accesses of which one is not admitted raise. -/
theorem State.accessBytes_denied {s : State} {kind : AccessKind} {ea : Word} {addrs : List Word}
    (h : ∃ a ∈ addrs, s.admitted kind a 1 = false) (done : State) :
    s.accessBytes kind ea addrs done = s.raise (.addressError kind ea) := by
  unfold State.accessBytes
  rw [if_neg]
  intro hall
  obtain ⟨a, ha, hd⟩ := h
  simp [List.all_eq_true.mp hall a ha] at hd

/-- Everything single-byte accesses can answer. -/
theorem State.accessBytes_cases (s : State) (kind : AccessKind) (ea : Word) (addrs : List Word)
    (done : State) :
    ((∀ a ∈ addrs, s.admitted kind a 1 = true) ∧ s.accessBytes kind ea addrs done = .next done) ∨
    ((∃ a ∈ addrs, s.admitted kind a 1 = false) ∧
      s.accessBytes kind ea addrs done = s.raise (.addressError kind ea)) := by
  by_cases h : ∀ a ∈ addrs, s.admitted kind a 1 = true
  · exact .inl ⟨h, State.accessBytes_done h done⟩
  · have h' : ∃ a ∈ addrs, s.admitted kind a 1 = false := by simpa using h
    exact .inr ⟨h', State.accessBytes_denied h' done⟩

/-! The answers the families share. -/

/-- A result in a register: always a next state (40_arith_logic.md R60). -/
theorem State.result_eq (s : State) (rd : Reg) (v : Word) :
    s.result rd v = .next ((s.setReg rd v).advance) := rfl

/-- A signed result that overflows raises, and one that does not is a result (R79, R136). -/
theorem State.signedResult_cases (s : State) (rd : Reg) (n : Int) :
    (overflows n = false ∧ s.signedResult rd n = .next ((s.setReg rd (trunc32 n)).advance)) ∨
    (overflows n = true ∧ s.signedResult rd n = s.raise .overflow) := by
  cases h : overflows n with
  | false => exact .inl ⟨rfl, by simp [State.signedResult, h, State.result_eq]⟩
  | true => exact .inr ⟨rfl, by simp [State.signedResult, h]⟩

/-- What an integer's overflow means (40_arith_logic.md R79). -/
theorem overflows_iff (n : Int) : overflows n = true ↔ n < -(2 ^ 31) ∨ n > 2 ^ 31 - 1 := by
  simp [overflows]

/-- Results in HI and LO: always a next state (42_muldiv.md R87). -/
theorem State.hiLoResult_eq (s : State) (hi lo : Word) :
    s.hiLoResult hi lo = .next (((s.setHi hi).setLo lo).advance) := rfl

/-- A branch goes to its target or on (43_branch_jump.md R97). -/
theorem State.branch_eq (s : State) (taken : Bool) (imm : Imm16) :
    s.branch taken imm = .next (s.goto (if taken then s.branchTarget imm else s.npc)) := by
  cases taken <;> rfl

/-- A branch that links writes register 31 only when it is taken (R102, R105). -/
theorem State.branchAndLink_eq (s : State) (taken : Bool) (imm : Imm16) :
    s.branchAndLink taken imm =
      .next (if taken then (s.setReg linkRegister s.npc).goto (s.branchTarget imm)
        else s.advance) := rfl

end Sys2Proof.Machine
end

