-- ==== Sys2Proof/Laws/Step.lean ====
section
/-! SUPPORT. What fetch and step can answer. -/

namespace Sys2Proof.Machine

/-- Everything fetch and decode can answer, in the order of 10_state.md R14. -/
theorem fetch_cases (s : State) :
    (s.pc.extractLsb' 0 2 ≠ 0b00#2 ∧ fetch s = .error (.addressError .fetch s.pc)) ∨
    (s.pc.extractLsb' 0 2 = 0b00#2 ∧ s.admitted .fetch s.pc 4 = false ∧
      fetch s = .error (.addressError .fetch s.pc)) ∨
    (s.pc.extractLsb' 0 2 = 0b00#2 ∧ s.admitted .fetch s.pc 4 = true ∧
      ((∃ i, decode (s.readWord s.pc) = .ok i ∧ fetch s = .ok i) ∨
       (∃ r, decode (s.readWord s.pc) = .error r ∧
          fetch s = .error (.reservedInstruction (s.readWord s.pc))))) := by
  by_cases h : s.pc.extractLsb' 0 2 = 0b00#2
  · refine .inr ?_
    cases hadm : s.admitted .fetch s.pc 4 with
    | false => exact .inl ⟨h, rfl, by simp [fetch, h, hadm]⟩
    | true =>
      refine .inr ⟨h, rfl, ?_⟩
      cases hd : decode (s.readWord s.pc) with
      | ok i => exact .inl ⟨i, rfl, by simp [fetch, h, hadm, hd]⟩
      | error r => exact .inr ⟨r, rfl, by simp [fetch, h, hadm, hd]⟩
  · exact .inl ⟨h, by simp [fetch, h]⟩

/-- Everything a step can do: it runs the instruction it fetched, or it takes the exception that
fetch or decode raised. -/
theorem step_cases (s : State) :
    (∃ i, fetch s = .ok i ∧ step s = exec i s) ∨
    (∃ e, fetch s = .error e ∧ step s = s.raise e) := by
  cases h : fetch s with
  | ok i => exact .inl ⟨i, rfl, by simp [step, h]⟩
  | error e => exact .inr ⟨e, rfl, by simp [step, h]⟩

end Sys2Proof.Machine
end

