-- ==== Sys2Proof/Laws/Effects.lean ====
section
/-! SUPPORT. The effects that claims are stated in, from the updates the meanings make. -/

namespace Sys2Proof.Machine

/-- A register write, whatever becomes of `pc`, is that register's effect. -/
theorem RegisterEffect.of_setReg (s : State) (rd : Reg) (v pc : Word) :
    RegisterEffect s ((s.setReg rd v).goto pc) rd v where
  regs r := by simp [State.reg_setReg]
  hi := by simp
  lo := by simp
  memory a := by simp
  platform := by simp

/-- A register result is a completed register write. -/
theorem writesRegister_of_result {i : Instr} {s : State} {rd : Reg} {v : Word}
    (h : exec i s = s.result rd v) : writesRegister i s rd v :=
  ⟨_, h, RegisterEffect.of_setReg s rd v _, by simp [State.advance, State.npc]⟩

/-- A result in HI and LO is a completed write of both. -/
theorem writesHiLo_of_hiLoResult {i : Instr} {s : State} {hi lo : Word}
    (h : exec i s = s.hiLoResult hi lo) : writesHiLo i s hi lo :=
  ⟨_, h, ⟨fun _ => rfl, rfl, rfl, fun _ => rfl, rfl⟩, rfl⟩

/-- An instruction that only assigns `pc` jumps. -/
theorem jumpsTo_of_goto {i : Instr} {s : State} {target : Word}
    (h : exec i s = .next (s.goto target)) : jumpsTo i s target :=
  ⟨_, h, ⟨rfl, fun _ => rfl, rfl, rfl, fun _ => rfl, rfl⟩⟩

/-- An instruction that writes the link and assigns `pc` jumps and links. -/
theorem jumpsAndLinks_of_setReg {i : Instr} {s : State} {rd : Reg} {target : Word}
    (h : exec i s = .next ((s.setReg rd s.npc).goto target)) : jumpsAndLinks i s rd target :=
  ⟨_, h, RegisterEffect.of_setReg s rd _ target, rfl⟩

/-- Cells stored leave everything but their own addresses alone. -/
theorem StoreFrame.of_writeCells (s : State) (cells : List (Word × Byte)) (pc : Word) :
    StoreFrame s ((s.writeCells cells).goto pc) (cells.map Prod.fst) where
  regs r := by simp
  hi := by simp
  lo := by simp
  memory a ha := by
    rw [State.goto_byteAt, State.byteAt_writeCells_of_notMem _ _ _ ha]
  platform := by simp

/-- Bytes stored at rising addresses are cells stored. -/
theorem State.writeBytes_eq_writeCells (s : State) (a : Word) (bytes : List Byte) :
    s.writeBytes a bytes =
      s.writeCells (bytes.mapIdx (fun n b => (a + BitVec.ofNat 32 n, b))) := by
  induction bytes generalizing s a with
  | nil => rfl
  | cons b bytes ih =>
    rw [State.writeBytes, ih, List.mapIdx_cons, State.writeCells, BitVec.add_zero]
    congr 1
    refine congrArg (fun f => List.mapIdx f bytes) ?_
    funext n c
    rw [BitVec.add_assoc, Nat.add_comm n 1, BitVec.ofNat_add]

end Sys2Proof.Machine
end

