-- ==== Sys2Proof/Laws/PerInstr.lean ====
section
/-! SUPPORT. Statements made per instruction. `EncodesRow`: the word of an instruction is selected by
the row of the opcode table that has its mnemonic (30_encoding.md R46 to R49). -/

namespace Sys2Proof.Laws

/-- The mask that covers the Op-Code, the Function Code and the register-format fields given. -/
def rMask (rs rt rd sa : BitVec 5) : Word := 0x3F#6 ++ rs ++ rt ++ rd ++ sa ++ 0x3F#6

/-- The mask that covers the Op-Code and the immediate-format fields given. -/
def iMask (rs rt : BitVec 5) : Word := 0x3F#6 ++ rs ++ rt ++ 0x0000#16

/-- The mask that covers the Op-Code. -/
def jMask : Word := 0x3F#6 ++ 0x0000000#26

theorem and_ones_six (f : BitVec 6) : f &&& 0x3F#6 = f := BitVec.and_allOnes (x := f)

theorem rWord_and_rMask (rs rt rd sa a b c d : BitVec 5) (f : BitVec 6) :
    rWord rs rt rd sa f &&& rMask a b c d =
      rWord (rs &&& a) (rt &&& b) (rd &&& c) (sa &&& d) f := by
  have h : ((0x00#6 ++ rs ++ rt ++ rd ++ sa ++ f) &&& (0x3F#6 ++ a ++ b ++ c ++ d ++ 0x3F#6)) =
      0x00#6 ++ (rs &&& a) ++ (rt &&& b) ++ (rd &&& c) ++ (sa &&& d) ++ f := by
    simp only [BitVec.and_append, and_ones_six]
  exact h

theorem iWord_and_iMask (op : BitVec 6) (rs rt a b : BitVec 5) (imm : Imm16) :
    iWord op rs rt imm &&& iMask a b = iWord op (rs &&& a) (rt &&& b) 0#16 := by
  have h : ((op ++ rs ++ rt ++ imm) &&& (0x3F#6 ++ a ++ b ++ 0x0000#16)) =
      op ++ (rs &&& a) ++ (rt &&& b) ++ 0#16 := by
    simp only [BitVec.and_append, and_ones_six, BitVec.and_zero]
  exact h

theorem jWord_and_jMask (op : BitVec 6) (imm : Imm26) :
    jWord op imm &&& jMask = jWord op 0#26 := by
  have h : ((op ++ imm) &&& (0x3F#6 ++ 0x0000000#26)) = op ++ 0#26 := by
    simp only [BitVec.and_append, and_ones_six, BitVec.and_zero]
  exact h

/-- The word of the instruction is selected by a row that has its mnemonic. -/
def EncodesRow.Statement (i : Instr) : Prop :=
  ∃ row ∈ opcodeTable, row.mnemonic = i.mnemonic ∧ row.selects (encode i) = true

/-- A row that selects an instruction's word, from the row's mask as a mask of fields. -/
theorem encodesRow_of {i : Instr} {row : OpcodeRow} (hrow : row ∈ opcodeTable)
    (hname : row.mnemonic = i.mnemonic) (hsel : encode i &&& row.mask = row.pattern) :
    EncodesRow.Statement i :=
  ⟨row, hrow, hname, by simp [OpcodeRow.selects, hsel]⟩

theorem EncodesRow.add (rd : Reg) (rs : Reg) (rt : Reg) : EncodesRow.Statement (.add rd rs rt) :=
  encodesRow_of (row := ⟨"add", 0x00000020#32, 0xFC0007FF#32⟩) (by decide) rfl
    ((rWord_and_rMask _ _ _ _ 0#5 0#5 0#5 31#5 _).trans (by simp; try decide))

theorem EncodesRow.addi (rt : Reg) (rs : Reg) (imm : Imm16) : EncodesRow.Statement (.addi rt rs imm) :=
  encodesRow_of (row := ⟨"addi", 0x20000000#32, 0xFC000000#32⟩) (by decide) rfl
    ((iWord_and_iMask _ _ _ 0#5 0#5 _).trans (by simp; try decide))

theorem EncodesRow.addiu (rt : Reg) (rs : Reg) (imm : Imm16) : EncodesRow.Statement (.addiu rt rs imm) :=
  encodesRow_of (row := ⟨"addiu", 0x24000000#32, 0xFC000000#32⟩) (by decide) rfl
    ((iWord_and_iMask _ _ _ 0#5 0#5 _).trans (by simp; try decide))

theorem EncodesRow.addu (rd : Reg) (rs : Reg) (rt : Reg) : EncodesRow.Statement (.addu rd rs rt) :=
  encodesRow_of (row := ⟨"addu", 0x00000021#32, 0xFC0007FF#32⟩) (by decide) rfl
    ((rWord_and_rMask _ _ _ _ 0#5 0#5 0#5 31#5 _).trans (by simp; try decide))

theorem EncodesRow.and (rd : Reg) (rs : Reg) (rt : Reg) : EncodesRow.Statement (.and rd rs rt) :=
  encodesRow_of (row := ⟨"and", 0x00000024#32, 0xFC0007FF#32⟩) (by decide) rfl
    ((rWord_and_rMask _ _ _ _ 0#5 0#5 0#5 31#5 _).trans (by simp; try decide))

theorem EncodesRow.andi (rt : Reg) (rs : Reg) (imm : Imm16) : EncodesRow.Statement (.andi rt rs imm) :=
  encodesRow_of (row := ⟨"andi", 0x30000000#32, 0xFC000000#32⟩) (by decide) rfl
    ((iWord_and_iMask _ _ _ 0#5 0#5 _).trans (by simp; try decide))

theorem EncodesRow.beq (rs : Reg) (rt : Reg) (imm : Imm16) : EncodesRow.Statement (.beq rs rt imm) :=
  encodesRow_of (row := ⟨"beq", 0x10000000#32, 0xFC000000#32⟩) (by decide) rfl
    ((iWord_and_iMask _ _ _ 0#5 0#5 _).trans (by simp; try decide))

theorem EncodesRow.bgez (rs : Reg) (imm : Imm16) : EncodesRow.Statement (.bgez rs imm) :=
  encodesRow_of (row := ⟨"bgez", 0x04010000#32, 0xFC1F0000#32⟩) (by decide) rfl
    ((iWord_and_iMask _ _ _ 0#5 31#5 _).trans (by simp; try decide))

theorem EncodesRow.bgezal (rs : Reg) (imm : Imm16) : EncodesRow.Statement (.bgezal rs imm) :=
  encodesRow_of (row := ⟨"bgezal", 0x04110000#32, 0xFC1F0000#32⟩) (by decide) rfl
    ((iWord_and_iMask _ _ _ 0#5 31#5 _).trans (by simp; try decide))

theorem EncodesRow.bgtz (rs : Reg) (imm : Imm16) : EncodesRow.Statement (.bgtz rs imm) :=
  encodesRow_of (row := ⟨"bgtz", 0x1C000000#32, 0xFC1F0000#32⟩) (by decide) rfl
    ((iWord_and_iMask _ _ _ 0#5 31#5 _).trans (by simp; try decide))

theorem EncodesRow.blez (rs : Reg) (imm : Imm16) : EncodesRow.Statement (.blez rs imm) :=
  encodesRow_of (row := ⟨"blez", 0x18000000#32, 0xFC1F0000#32⟩) (by decide) rfl
    ((iWord_and_iMask _ _ _ 0#5 31#5 _).trans (by simp; try decide))

theorem EncodesRow.bltzal (rs : Reg) (imm : Imm16) : EncodesRow.Statement (.bltzal rs imm) :=
  encodesRow_of (row := ⟨"bltzal", 0x04100000#32, 0xFC1F0000#32⟩) (by decide) rfl
    ((iWord_and_iMask _ _ _ 0#5 31#5 _).trans (by simp; try decide))

theorem EncodesRow.bltz (rs : Reg) (imm : Imm16) : EncodesRow.Statement (.bltz rs imm) :=
  encodesRow_of (row := ⟨"bltz", 0x04000000#32, 0xFC1F0000#32⟩) (by decide) rfl
    ((iWord_and_iMask _ _ _ 0#5 31#5 _).trans (by simp; try decide))

theorem EncodesRow.bne (rs : Reg) (rt : Reg) (imm : Imm16) : EncodesRow.Statement (.bne rs rt imm) :=
  encodesRow_of (row := ⟨"bne", 0x14000000#32, 0xFC000000#32⟩) (by decide) rfl
    ((iWord_and_iMask _ _ _ 0#5 0#5 _).trans (by simp; try decide))

theorem EncodesRow.div (rs : Reg) (rt : Reg) : EncodesRow.Statement (.div rs rt) :=
  encodesRow_of (row := ⟨"div", 0x0000001A#32, 0xFC00FFFF#32⟩) (by decide) rfl
    ((rWord_and_rMask _ _ _ _ 0#5 0#5 31#5 31#5 _).trans (by simp; try decide))

theorem EncodesRow.divu (rs : Reg) (rt : Reg) : EncodesRow.Statement (.divu rs rt) :=
  encodesRow_of (row := ⟨"divu", 0x0000001B#32, 0xFC00FFFF#32⟩) (by decide) rfl
    ((rWord_and_rMask _ _ _ _ 0#5 0#5 31#5 31#5 _).trans (by simp; try decide))

theorem EncodesRow.j (imm : Imm26) : EncodesRow.Statement (.j imm) :=
  encodesRow_of (row := ⟨"j", 0x08000000#32, 0xFC000000#32⟩) (by decide) rfl
    ((jWord_and_jMask _ _).trans (by simp; try decide))

theorem EncodesRow.jal (imm : Imm26) : EncodesRow.Statement (.jal imm) :=
  encodesRow_of (row := ⟨"jal", 0x0C000000#32, 0xFC000000#32⟩) (by decide) rfl
    ((jWord_and_jMask _ _).trans (by simp; try decide))

theorem EncodesRow.jalr (rd : Reg) (rs : Reg) : EncodesRow.Statement (.jalr rd rs) :=
  encodesRow_of (row := ⟨"jalr", 0x00000009#32, 0xFC1F07FF#32⟩) (by decide) rfl
    ((rWord_and_rMask _ _ _ _ 0#5 31#5 0#5 31#5 _).trans (by simp; try decide))

theorem EncodesRow.jr (rs : Reg) : EncodesRow.Statement (.jr rs) :=
  encodesRow_of (row := ⟨"jr", 0x00000008#32, 0xFC1FFFFF#32⟩) (by decide) rfl
    ((rWord_and_rMask _ _ _ _ 0#5 31#5 31#5 31#5 _).trans (by simp; try decide))

theorem EncodesRow.lb (rt : Reg) (offset : Imm16) (rs : Reg) : EncodesRow.Statement (.lb rt offset rs) :=
  encodesRow_of (row := ⟨"lb", 0x80000000#32, 0xFC000000#32⟩) (by decide) rfl
    ((iWord_and_iMask _ _ _ 0#5 0#5 _).trans (by simp; try decide))

theorem EncodesRow.lbu (rt : Reg) (offset : Imm16) (rs : Reg) : EncodesRow.Statement (.lbu rt offset rs) :=
  encodesRow_of (row := ⟨"lbu", 0x90000000#32, 0xFC000000#32⟩) (by decide) rfl
    ((iWord_and_iMask _ _ _ 0#5 0#5 _).trans (by simp; try decide))

theorem EncodesRow.lh (rt : Reg) (offset : Imm16) (rs : Reg) : EncodesRow.Statement (.lh rt offset rs) :=
  encodesRow_of (row := ⟨"lh", 0x84000000#32, 0xFC000000#32⟩) (by decide) rfl
    ((iWord_and_iMask _ _ _ 0#5 0#5 _).trans (by simp; try decide))

theorem EncodesRow.lhu (rt : Reg) (offset : Imm16) (rs : Reg) : EncodesRow.Statement (.lhu rt offset rs) :=
  encodesRow_of (row := ⟨"lhu", 0x94000000#32, 0xFC000000#32⟩) (by decide) rfl
    ((iWord_and_iMask _ _ _ 0#5 0#5 _).trans (by simp; try decide))

theorem EncodesRow.lui (rt : Reg) (imm : Imm16) : EncodesRow.Statement (.lui rt imm) :=
  encodesRow_of (row := ⟨"lui", 0x3C000000#32, 0xFFE00000#32⟩) (by decide) rfl
    ((iWord_and_iMask _ _ _ 31#5 0#5 _).trans (by simp; try decide))

theorem EncodesRow.lw (rt : Reg) (offset : Imm16) (rs : Reg) : EncodesRow.Statement (.lw rt offset rs) :=
  encodesRow_of (row := ⟨"lw", 0x8C000000#32, 0xFC000000#32⟩) (by decide) rfl
    ((iWord_and_iMask _ _ _ 0#5 0#5 _).trans (by simp; try decide))

theorem EncodesRow.lwl (rt : Reg) (offset : Imm16) (rs : Reg) : EncodesRow.Statement (.lwl rt offset rs) :=
  encodesRow_of (row := ⟨"lwl", 0x88000000#32, 0xFC000000#32⟩) (by decide) rfl
    ((iWord_and_iMask _ _ _ 0#5 0#5 _).trans (by simp; try decide))

theorem EncodesRow.lwr (rt : Reg) (offset : Imm16) (rs : Reg) : EncodesRow.Statement (.lwr rt offset rs) :=
  encodesRow_of (row := ⟨"lwr", 0x98000000#32, 0xFC000000#32⟩) (by decide) rfl
    ((iWord_and_iMask _ _ _ 0#5 0#5 _).trans (by simp; try decide))

theorem EncodesRow.mfhi (rd : Reg) : EncodesRow.Statement (.mfhi rd) :=
  encodesRow_of (row := ⟨"mfhi", 0x00000010#32, 0xFFFF07FF#32⟩) (by decide) rfl
    ((rWord_and_rMask _ _ _ _ 31#5 31#5 0#5 31#5 _).trans (by simp; try decide))

theorem EncodesRow.mflo (rd : Reg) : EncodesRow.Statement (.mflo rd) :=
  encodesRow_of (row := ⟨"mflo", 0x00000012#32, 0xFFFF07FF#32⟩) (by decide) rfl
    ((rWord_and_rMask _ _ _ _ 31#5 31#5 0#5 31#5 _).trans (by simp; try decide))

theorem EncodesRow.mthi (rs : Reg) : EncodesRow.Statement (.mthi rs) :=
  encodesRow_of (row := ⟨"mthi", 0x00000011#32, 0xFC1FFFFF#32⟩) (by decide) rfl
    ((rWord_and_rMask _ _ _ _ 0#5 31#5 31#5 31#5 _).trans (by simp; try decide))

theorem EncodesRow.mtlo (rs : Reg) : EncodesRow.Statement (.mtlo rs) :=
  encodesRow_of (row := ⟨"mtlo", 0x00000013#32, 0xFC1FFFFF#32⟩) (by decide) rfl
    ((rWord_and_rMask _ _ _ _ 0#5 31#5 31#5 31#5 _).trans (by simp; try decide))

theorem EncodesRow.mult (rs : Reg) (rt : Reg) : EncodesRow.Statement (.mult rs rt) :=
  encodesRow_of (row := ⟨"mult", 0x00000018#32, 0xFC00FFFF#32⟩) (by decide) rfl
    ((rWord_and_rMask _ _ _ _ 0#5 0#5 31#5 31#5 _).trans (by simp; try decide))

theorem EncodesRow.multu (rs : Reg) (rt : Reg) : EncodesRow.Statement (.multu rs rt) :=
  encodesRow_of (row := ⟨"multu", 0x00000019#32, 0xFC00FFFF#32⟩) (by decide) rfl
    ((rWord_and_rMask _ _ _ _ 0#5 0#5 31#5 31#5 _).trans (by simp; try decide))

theorem EncodesRow.nor (rd : Reg) (rs : Reg) (rt : Reg) : EncodesRow.Statement (.nor rd rs rt) :=
  encodesRow_of (row := ⟨"nor", 0x00000027#32, 0xFC0007FF#32⟩) (by decide) rfl
    ((rWord_and_rMask _ _ _ _ 0#5 0#5 0#5 31#5 _).trans (by simp; try decide))

theorem EncodesRow.or (rd : Reg) (rs : Reg) (rt : Reg) : EncodesRow.Statement (.or rd rs rt) :=
  encodesRow_of (row := ⟨"or", 0x00000025#32, 0xFC0007FF#32⟩) (by decide) rfl
    ((rWord_and_rMask _ _ _ _ 0#5 0#5 0#5 31#5 _).trans (by simp; try decide))

theorem EncodesRow.ori (rt : Reg) (rs : Reg) (imm : Imm16) : EncodesRow.Statement (.ori rt rs imm) :=
  encodesRow_of (row := ⟨"ori", 0x34000000#32, 0xFC000000#32⟩) (by decide) rfl
    ((iWord_and_iMask _ _ _ 0#5 0#5 _).trans (by simp; try decide))

theorem EncodesRow.sb (rt : Reg) (offset : Imm16) (rs : Reg) : EncodesRow.Statement (.sb rt offset rs) :=
  encodesRow_of (row := ⟨"sb", 0xA0000000#32, 0xFC000000#32⟩) (by decide) rfl
    ((iWord_and_iMask _ _ _ 0#5 0#5 _).trans (by simp; try decide))

theorem EncodesRow.sh (rt : Reg) (offset : Imm16) (rs : Reg) : EncodesRow.Statement (.sh rt offset rs) :=
  encodesRow_of (row := ⟨"sh", 0xA4000000#32, 0xFC000000#32⟩) (by decide) rfl
    ((iWord_and_iMask _ _ _ 0#5 0#5 _).trans (by simp; try decide))

theorem EncodesRow.sll (rd : Reg) (rt : Reg) (sa : Shamt) : EncodesRow.Statement (.sll rd rt sa) :=
  encodesRow_of (row := ⟨"sll", 0x00000000#32, 0xFFE0003F#32⟩) (by decide) rfl
    ((rWord_and_rMask _ _ _ _ 31#5 0#5 0#5 0#5 _).trans (by simp; try decide))

theorem EncodesRow.sllv (rd : Reg) (rt : Reg) (rs : Reg) : EncodesRow.Statement (.sllv rd rt rs) :=
  encodesRow_of (row := ⟨"sllv", 0x00000004#32, 0xFC0007FF#32⟩) (by decide) rfl
    ((rWord_and_rMask _ _ _ _ 0#5 0#5 0#5 31#5 _).trans (by simp; try decide))

theorem EncodesRow.slt (rd : Reg) (rs : Reg) (rt : Reg) : EncodesRow.Statement (.slt rd rs rt) :=
  encodesRow_of (row := ⟨"slt", 0x0000002A#32, 0xFC0007FF#32⟩) (by decide) rfl
    ((rWord_and_rMask _ _ _ _ 0#5 0#5 0#5 31#5 _).trans (by simp; try decide))

theorem EncodesRow.slti (rt : Reg) (rs : Reg) (imm : Imm16) : EncodesRow.Statement (.slti rt rs imm) :=
  encodesRow_of (row := ⟨"slti", 0x28000000#32, 0xFC000000#32⟩) (by decide) rfl
    ((iWord_and_iMask _ _ _ 0#5 0#5 _).trans (by simp; try decide))

theorem EncodesRow.sltiu (rt : Reg) (rs : Reg) (imm : Imm16) : EncodesRow.Statement (.sltiu rt rs imm) :=
  encodesRow_of (row := ⟨"sltiu", 0x2C000000#32, 0xFC000000#32⟩) (by decide) rfl
    ((iWord_and_iMask _ _ _ 0#5 0#5 _).trans (by simp; try decide))

theorem EncodesRow.sltu (rd : Reg) (rs : Reg) (rt : Reg) : EncodesRow.Statement (.sltu rd rs rt) :=
  encodesRow_of (row := ⟨"sltu", 0x0000002B#32, 0xFC0007FF#32⟩) (by decide) rfl
    ((rWord_and_rMask _ _ _ _ 0#5 0#5 0#5 31#5 _).trans (by simp; try decide))

theorem EncodesRow.sra (rd : Reg) (rt : Reg) (sa : Shamt) : EncodesRow.Statement (.sra rd rt sa) :=
  encodesRow_of (row := ⟨"sra", 0x00000003#32, 0xFFE0003F#32⟩) (by decide) rfl
    ((rWord_and_rMask _ _ _ _ 31#5 0#5 0#5 0#5 _).trans (by simp; try decide))

theorem EncodesRow.srav (rd : Reg) (rt : Reg) (rs : Reg) : EncodesRow.Statement (.srav rd rt rs) :=
  encodesRow_of (row := ⟨"srav", 0x00000007#32, 0xFC0007FF#32⟩) (by decide) rfl
    ((rWord_and_rMask _ _ _ _ 0#5 0#5 0#5 31#5 _).trans (by simp; try decide))

theorem EncodesRow.srl (rd : Reg) (rt : Reg) (sa : Shamt) : EncodesRow.Statement (.srl rd rt sa) :=
  encodesRow_of (row := ⟨"srl", 0x00000002#32, 0xFFE0003F#32⟩) (by decide) rfl
    ((rWord_and_rMask _ _ _ _ 31#5 0#5 0#5 0#5 _).trans (by simp; try decide))

theorem EncodesRow.srlv (rd : Reg) (rt : Reg) (rs : Reg) : EncodesRow.Statement (.srlv rd rt rs) :=
  encodesRow_of (row := ⟨"srlv", 0x00000006#32, 0xFC0007FF#32⟩) (by decide) rfl
    ((rWord_and_rMask _ _ _ _ 0#5 0#5 0#5 31#5 _).trans (by simp; try decide))

theorem EncodesRow.sub (rd : Reg) (rs : Reg) (rt : Reg) : EncodesRow.Statement (.sub rd rs rt) :=
  encodesRow_of (row := ⟨"sub", 0x00000022#32, 0xFC0007FF#32⟩) (by decide) rfl
    ((rWord_and_rMask _ _ _ _ 0#5 0#5 0#5 31#5 _).trans (by simp; try decide))

theorem EncodesRow.subu (rd : Reg) (rs : Reg) (rt : Reg) : EncodesRow.Statement (.subu rd rs rt) :=
  encodesRow_of (row := ⟨"subu", 0x00000023#32, 0xFC0007FF#32⟩) (by decide) rfl
    ((rWord_and_rMask _ _ _ _ 0#5 0#5 0#5 31#5 _).trans (by simp; try decide))

theorem EncodesRow.sw (rt : Reg) (offset : Imm16) (rs : Reg) : EncodesRow.Statement (.sw rt offset rs) :=
  encodesRow_of (row := ⟨"sw", 0xAC000000#32, 0xFC000000#32⟩) (by decide) rfl
    ((iWord_and_iMask _ _ _ 0#5 0#5 _).trans (by simp; try decide))

theorem EncodesRow.swl (rt : Reg) (offset : Imm16) (rs : Reg) : EncodesRow.Statement (.swl rt offset rs) :=
  encodesRow_of (row := ⟨"swl", 0xA8000000#32, 0xFC000000#32⟩) (by decide) rfl
    ((iWord_and_iMask _ _ _ 0#5 0#5 _).trans (by simp; try decide))

theorem EncodesRow.swr (rt : Reg) (offset : Imm16) (rs : Reg) : EncodesRow.Statement (.swr rt offset rs) :=
  encodesRow_of (row := ⟨"swr", 0xB8000000#32, 0xFC000000#32⟩) (by decide) rfl
    ((iWord_and_iMask _ _ _ 0#5 0#5 _).trans (by simp; try decide))

theorem EncodesRow.syscall : EncodesRow.Statement .syscall :=
  encodesRow_of (row := ⟨"syscall", 0x0000000C#32, 0xFFFFFFFF#32⟩) (by decide) rfl
    ((rWord_and_rMask _ _ _ _ 31#5 31#5 31#5 31#5 _).trans (by simp; try decide))

theorem EncodesRow.xor (rd : Reg) (rs : Reg) (rt : Reg) : EncodesRow.Statement (.xor rd rs rt) :=
  encodesRow_of (row := ⟨"xor", 0x00000026#32, 0xFC0007FF#32⟩) (by decide) rfl
    ((rWord_and_rMask _ _ _ _ 0#5 0#5 0#5 31#5 _).trans (by simp; try decide))

theorem EncodesRow.xori (rt : Reg) (rs : Reg) (imm : Imm16) : EncodesRow.Statement (.xori rt rs imm) :=
  encodesRow_of (row := ⟨"xori", 0x38000000#32, 0xFC000000#32⟩) (by decide) rfl
    ((iWord_and_iMask _ _ _ 0#5 0#5 _).trans (by simp; try decide))

end Sys2Proof.Laws
end

