-- ==== Sys2Proof/Tests/Slice0.lean ====
section
/-! SUPPORT. Tests of the model. The words are written out from the encodings that the instructions'
rules print; the values expected of a step are those of spec/95_test_vectors.md; and for every
obligation with hypotheses a theorem shows a state and operands that meet them. -/

namespace Sys2Proof.Tests

open Sys2Proof.Machine

/-! States to test on. -/

/-- The reset state with a `pc`, some registers, and the eight bytes of spec/95_test_vectors.md 2.5
at 0x1000. -/
def bench (e : Endian) (pc : Word) (regs : List (Reg × Word)) : State :=
  regs.foldl (fun s r => s.setReg r.1 r.2)
    { State.reset with
      pc := pc
      platform := { Config.platform with endian := e }
      mem := [(0x1000, 0xA0#8), (0x1001, 0xA1#8), (0x1002, 0xA2#8), (0x1003, 0xA3#8),
        (0x1004, 0xB0#8), (0x1005, 0xB1#8), (0x1006, 0xB2#8), (0x1007, 0xB3#8)] }

/-- The same with some accesses not admitted. -/
def denying (denied : List Denial) (s : State) : State :=
  { s with platform := { s.platform with denied := denied } }

/-- The same with an environment that resumes. -/
def resuming (s : State) : State :=
  { s with platform := { s.platform with environment := .resuming } }

/-- One step, with the word `w` placed where it fetches. -/
def runs (w : Word) (s : State) : Result := step (s.withFetchWord 32 w.toNat)

/-- The answer is a next state that passes a check. -/
def leaves (o : Result) (check : State → Bool) : Bool :=
  match o with
  | .next t => check t
  | .fault _ => false
  | .refused _ => false

/-- The answer is a fault, and this one. -/
def endsWith (o : Result) (f : Fault) : Bool :=
  match o with
  | .next _ => false
  | .fault g => decide (g = f)
  | .refused _ => false

/-! Ill-formed words, one for each check of a word: an op-code, a function code, a code that selects
no row, and each field that must be zero (30_encoding.md R46 to R50). -/

theorem test_wellformed_refuses_opcodes :
    [0x40000000#32, 0x70000000#32, 0xC0000000#32, 0xBC000000#32, 0x9C000000#32,
      0xB0000000#32, 0xFFFFFFFF#32].all
      (fun w => !wellFormed w) = true := by decide

theorem test_wellformed_refuses_functs :
    [0x0000000D#32, 0x00000001#32, 0x00000005#32, 0x0000003F#32].all
      (fun w => !wellFormed w) = true := by decide

theorem test_wellformed_refuses_codes :
    [0x04020000#32, 0x04120000#32, 0x041F0000#32].all
      (fun w => !wellFormed w) = true := by decide

/-- A field rs that must be zero: `lui`, `mfhi`, `mflo`, `sll`, `sra`, `srl`, `syscall`. -/
theorem test_wellformed_refuses_nonzero_rs :
    [0b001111_00001_01010_1000000000000110#32,
      0b000000_00001_00000_00111_00000_010000#32,
      0b000000_00001_00000_00111_00000_010010#32,
      0b000000_00001_01010_00111_10010_000000#32,
      0b000000_00001_01010_00111_10010_000011#32,
      0b000000_00001_01010_00111_10010_000010#32,
      0b000000_00001_00000_00000_00000_001100#32].all
      (fun w => !wellFormed w) = true := by decide

/-- A field rt that must be zero: `bgtz`, `blez`, `jalr`, `jr`, `mfhi`, `mflo`, `mthi`, `mtlo`, `syscall`. -/
theorem test_wellformed_refuses_nonzero_rt :
    [0b000111_10001_00001_1000000000000110#32,
      0b000110_10001_00001_1000000000000110#32,
      0b000000_10001_00001_00111_00000_001001#32,
      0b000000_10001_00001_00000_00000_001000#32,
      0b000000_00000_00001_00111_00000_010000#32,
      0b000000_00000_00001_00111_00000_010010#32,
      0b000000_10001_00001_00000_00000_010001#32,
      0b000000_10001_00001_00000_00000_010011#32,
      0b000000_00000_00001_00000_00000_001100#32].all
      (fun w => !wellFormed w) = true := by decide

/-- A field rd that must be zero: `div`, `divu`, `jr`, `mthi`, `mtlo`, `mult`, `multu`, `syscall`. -/
theorem test_wellformed_refuses_nonzero_rd :
    [0b000000_10001_01010_00001_00000_011010#32,
      0b000000_10001_01010_00001_00000_011011#32,
      0b000000_10001_00000_00001_00000_001000#32,
      0b000000_10001_00000_00001_00000_010001#32,
      0b000000_10001_00000_00001_00000_010011#32,
      0b000000_10001_01010_00001_00000_011000#32,
      0b000000_10001_01010_00001_00000_011001#32,
      0b000000_00000_00000_00001_00000_001100#32].all
      (fun w => !wellFormed w) = true := by decide

/-- A field sa that must be zero: `add`, `addu`, `and`, `div`, `divu`, `jalr`, `jr`, `mfhi`, `mflo`, `mthi`, `mtlo`, `mult`, `multu`, `nor`, `or`, `sllv`, `slt`, `sltu`, `srav`, `srlv`, `sub`, `subu`, `syscall`, `xor`. -/
theorem test_wellformed_refuses_nonzero_sa :
    [0b000000_10001_01010_00111_00001_100000#32,
      0b000000_10001_01010_00111_00001_100001#32,
      0b000000_10001_01010_00111_00001_100100#32,
      0b000000_10001_01010_00000_00001_011010#32,
      0b000000_10001_01010_00000_00001_011011#32,
      0b000000_10001_00000_00111_00001_001001#32,
      0b000000_10001_00000_00000_00001_001000#32,
      0b000000_00000_00000_00111_00001_010000#32,
      0b000000_00000_00000_00111_00001_010010#32,
      0b000000_10001_00000_00000_00001_010001#32,
      0b000000_10001_00000_00000_00001_010011#32,
      0b000000_10001_01010_00000_00001_011000#32,
      0b000000_10001_01010_00000_00001_011001#32,
      0b000000_10001_01010_00111_00001_100111#32,
      0b000000_10001_01010_00111_00001_100101#32,
      0b000000_10001_01010_00111_00001_000100#32,
      0b000000_10001_01010_00111_00001_101010#32,
      0b000000_10001_01010_00111_00001_101011#32,
      0b000000_10001_01010_00111_00001_000111#32,
      0b000000_10001_01010_00111_00001_000110#32,
      0b000000_10001_01010_00111_00001_100010#32,
      0b000000_10001_01010_00111_00001_100011#32,
      0b000000_00000_00000_00000_00001_001100#32,
      0b000000_10001_01010_00111_00001_100110#32].all
      (fun w => !wellFormed w) = true := by decide

/-- Each is refused by its own name. -/
theorem test_decode_refuses_by_name :
    decode 0xFFFFFFFF#32 = .error .opcode ∧ decode 0x0000003F#32 = .error .funct ∧
      decode 0x04020000#32 = .error .code ∧ decode 0x0000004C#32 = .error .zeroField ∧
      decodeBytes .big [0x00#8, 0x22#8, 0x18#8] = .error .tooShort := by decide

/-! Every instruction's word, from the encoding its rule prints. -/

/-- R61. -/
theorem test_decode_add : decode 0b000000_10001_01010_00111_00000_100000#32 =
    .ok (.add 0b00111#5 0b10001#5 0b01010#5) := by decide

/-- R62. -/
theorem test_decode_addi : decode 0b001000_10001_01010_1000000000000110#32 =
    .ok (.addi 0b01010#5 0b10001#5 0b1000000000000110#16) := by decide

/-- R63. -/
theorem test_decode_addiu : decode 0b001001_10001_01010_1000000000000110#32 =
    .ok (.addiu 0b01010#5 0b10001#5 0b1000000000000110#16) := by decide

/-- R64. -/
theorem test_decode_addu : decode 0b000000_10001_01010_00111_00000_100001#32 =
    .ok (.addu 0b00111#5 0b10001#5 0b01010#5) := by decide

/-- R65. -/
theorem test_decode_and : decode 0b000000_10001_01010_00111_00000_100100#32 =
    .ok (.and 0b00111#5 0b10001#5 0b01010#5) := by decide

/-- R66. -/
theorem test_decode_andi : decode 0b001100_10001_01010_1000000000000110#32 =
    .ok (.andi 0b01010#5 0b10001#5 0b1000000000000110#16) := by decide

/-- R100. -/
theorem test_decode_beq : decode 0b000100_10001_01010_1000000000000110#32 =
    .ok (.beq 0b10001#5 0b01010#5 0b1000000000000110#16) := by decide

/-- R101. -/
theorem test_decode_bgez : decode 0b000001_10001_00001_1000000000000110#32 =
    .ok (.bgez 0b10001#5 0b1000000000000110#16) := by decide

/-- R102. -/
theorem test_decode_bgezal : decode 0b000001_10001_10001_1000000000000110#32 =
    .ok (.bgezal 0b10001#5 0b1000000000000110#16) := by decide

/-- R103. -/
theorem test_decode_bgtz : decode 0b000111_10001_00000_1000000000000110#32 =
    .ok (.bgtz 0b10001#5 0b1000000000000110#16) := by decide

/-- R104. -/
theorem test_decode_blez : decode 0b000110_10001_00000_1000000000000110#32 =
    .ok (.blez 0b10001#5 0b1000000000000110#16) := by decide

/-- R105. -/
theorem test_decode_bltzal : decode 0b000001_10001_10000_1000000000000110#32 =
    .ok (.bltzal 0b10001#5 0b1000000000000110#16) := by decide

/-- R106. -/
theorem test_decode_bltz : decode 0b000001_10001_00000_1000000000000110#32 =
    .ok (.bltz 0b10001#5 0b1000000000000110#16) := by decide

/-- R107. -/
theorem test_decode_bne : decode 0b000101_10001_01010_1000000000000110#32 =
    .ok (.bne 0b10001#5 0b01010#5 0b1000000000000110#16) := by decide

/-- R88. -/
theorem test_decode_div : decode 0b000000_10001_01010_00000_00000_011010#32 =
    .ok (.div 0b10001#5 0b01010#5) := by decide

/-- R89. -/
theorem test_decode_divu : decode 0b000000_10001_01010_00000_00000_011011#32 =
    .ok (.divu 0b10001#5 0b01010#5) := by decide

/-- R108. -/
theorem test_decode_j : decode 0b000010_10000000000000000000000101#32 =
    .ok (.j 0b10000000000000000000000101#26) := by decide

/-- R109. -/
theorem test_decode_jal : decode 0b000011_10000000000000000000000101#32 =
    .ok (.jal 0b10000000000000000000000101#26) := by decide

/-- R110. -/
theorem test_decode_jalr : decode 0b000000_10001_00000_00111_00000_001001#32 =
    .ok (.jalr 0b00111#5 0b10001#5) := by decide

/-- R111. -/
theorem test_decode_jr : decode 0b000000_10001_00000_00000_00000_001000#32 =
    .ok (.jr 0b10001#5) := by decide

/-- R115. -/
theorem test_decode_lb : decode 0b100000_10001_01010_1000000000000110#32 =
    .ok (.lb 0b01010#5 0b1000000000000110#16 0b10001#5) := by decide

/-- R116. -/
theorem test_decode_lbu : decode 0b100100_10001_01010_1000000000000110#32 =
    .ok (.lbu 0b01010#5 0b1000000000000110#16 0b10001#5) := by decide

/-- R117. -/
theorem test_decode_lh : decode 0b100001_10001_01010_1000000000000110#32 =
    .ok (.lh 0b01010#5 0b1000000000000110#16 0b10001#5) := by decide

/-- R118. -/
theorem test_decode_lhu : decode 0b100101_10001_01010_1000000000000110#32 =
    .ok (.lhu 0b01010#5 0b1000000000000110#16 0b10001#5) := by decide

/-- R67. -/
theorem test_decode_lui : decode 0b001111_00000_01010_1000000000000110#32 =
    .ok (.lui 0b01010#5 0b1000000000000110#16) := by decide

/-- R119. -/
theorem test_decode_lw : decode 0b100011_10001_01010_1000000000000110#32 =
    .ok (.lw 0b01010#5 0b1000000000000110#16 0b10001#5) := by decide

/-- R120. -/
theorem test_decode_lwl : decode 0b100010_10001_01010_1000000000000110#32 =
    .ok (.lwl 0b01010#5 0b1000000000000110#16 0b10001#5) := by decide

/-- R121. -/
theorem test_decode_lwr : decode 0b100110_10001_01010_1000000000000110#32 =
    .ok (.lwr 0b01010#5 0b1000000000000110#16 0b10001#5) := by decide

/-- R90. -/
theorem test_decode_mfhi : decode 0b000000_00000_00000_00111_00000_010000#32 =
    .ok (.mfhi 0b00111#5) := by decide

/-- R91. -/
theorem test_decode_mflo : decode 0b000000_00000_00000_00111_00000_010010#32 =
    .ok (.mflo 0b00111#5) := by decide

/-- R92. -/
theorem test_decode_mthi : decode 0b000000_10001_00000_00000_00000_010001#32 =
    .ok (.mthi 0b10001#5) := by decide

/-- R93. -/
theorem test_decode_mtlo : decode 0b000000_10001_00000_00000_00000_010011#32 =
    .ok (.mtlo 0b10001#5) := by decide

/-- R94. -/
theorem test_decode_mult : decode 0b000000_10001_01010_00000_00000_011000#32 =
    .ok (.mult 0b10001#5 0b01010#5) := by decide

/-- R95. -/
theorem test_decode_multu : decode 0b000000_10001_01010_00000_00000_011001#32 =
    .ok (.multu 0b10001#5 0b01010#5) := by decide

/-- R68. -/
theorem test_decode_nor : decode 0b000000_10001_01010_00111_00000_100111#32 =
    .ok (.nor 0b00111#5 0b10001#5 0b01010#5) := by decide

/-- R69. -/
theorem test_decode_or : decode 0b000000_10001_01010_00111_00000_100101#32 =
    .ok (.or 0b00111#5 0b10001#5 0b01010#5) := by decide

/-- R70. -/
theorem test_decode_ori : decode 0b001101_10001_01010_1000000000000110#32 =
    .ok (.ori 0b01010#5 0b10001#5 0b1000000000000110#16) := by decide

/-- R122. -/
theorem test_decode_sb : decode 0b101000_10001_01010_1000000000000110#32 =
    .ok (.sb 0b01010#5 0b1000000000000110#16 0b10001#5) := by decide

/-- R123. -/
theorem test_decode_sh : decode 0b101001_10001_01010_1000000000000110#32 =
    .ok (.sh 0b01010#5 0b1000000000000110#16 0b10001#5) := by decide

/-- R81. -/
theorem test_decode_sll : decode 0b000000_00000_01010_00111_10010_000000#32 =
    .ok (.sll 0b00111#5 0b01010#5 0b10010#5) := by decide

/-- R82. -/
theorem test_decode_sllv : decode 0b000000_10001_01010_00111_00000_000100#32 =
    .ok (.sllv 0b00111#5 0b01010#5 0b10001#5) := by decide

/-- R71. -/
theorem test_decode_slt : decode 0b000000_10001_01010_00111_00000_101010#32 =
    .ok (.slt 0b00111#5 0b10001#5 0b01010#5) := by decide

/-- R72. -/
theorem test_decode_slti : decode 0b001010_10001_01010_1000000000000110#32 =
    .ok (.slti 0b01010#5 0b10001#5 0b1000000000000110#16) := by decide

/-- R73. -/
theorem test_decode_sltiu : decode 0b001011_10001_01010_1000000000000110#32 =
    .ok (.sltiu 0b01010#5 0b10001#5 0b1000000000000110#16) := by decide

/-- R74. -/
theorem test_decode_sltu : decode 0b000000_10001_01010_00111_00000_101011#32 =
    .ok (.sltu 0b00111#5 0b10001#5 0b01010#5) := by decide

/-- R83. -/
theorem test_decode_sra : decode 0b000000_00000_01010_00111_10010_000011#32 =
    .ok (.sra 0b00111#5 0b01010#5 0b10010#5) := by decide

/-- R84. -/
theorem test_decode_srav : decode 0b000000_10001_01010_00111_00000_000111#32 =
    .ok (.srav 0b00111#5 0b01010#5 0b10001#5) := by decide

/-- R85. -/
theorem test_decode_srl : decode 0b000000_00000_01010_00111_10010_000010#32 =
    .ok (.srl 0b00111#5 0b01010#5 0b10010#5) := by decide

/-- R86. -/
theorem test_decode_srlv : decode 0b000000_10001_01010_00111_00000_000110#32 =
    .ok (.srlv 0b00111#5 0b01010#5 0b10001#5) := by decide

/-- R75. -/
theorem test_decode_sub : decode 0b000000_10001_01010_00111_00000_100010#32 =
    .ok (.sub 0b00111#5 0b10001#5 0b01010#5) := by decide

/-- R76. -/
theorem test_decode_subu : decode 0b000000_10001_01010_00111_00000_100011#32 =
    .ok (.subu 0b00111#5 0b10001#5 0b01010#5) := by decide

/-- R124. -/
theorem test_decode_sw : decode 0b101011_10001_01010_1000000000000110#32 =
    .ok (.sw 0b01010#5 0b1000000000000110#16 0b10001#5) := by decide

/-- R125. -/
theorem test_decode_swl : decode 0b101010_10001_01010_1000000000000110#32 =
    .ok (.swl 0b01010#5 0b1000000000000110#16 0b10001#5) := by decide

/-- R126. -/
theorem test_decode_swr : decode 0b101110_10001_01010_1000000000000110#32 =
    .ok (.swr 0b01010#5 0b1000000000000110#16 0b10001#5) := by decide

/-- R130. -/
theorem test_decode_syscall : decode 0b000000_00000_00000_00000_00000_001100#32 =
    .ok .syscall := by decide

/-- R77. -/
theorem test_decode_xor : decode 0b000000_10001_01010_00111_00000_100110#32 =
    .ok (.xor 0b00111#5 0b10001#5 0b01010#5) := by decide

/-- R78. -/
theorem test_decode_xori : decode 0b001110_10001_01010_1000000000000110#32 =
    .ok (.xori 0b01010#5 0b10001#5 0b1000000000000110#16) := by decide

/-- The host's numbering of bits, in either width of question. -/
theorem test_decodeTableWord :
    decodeTableWord 32 0x2022FFFF = some (.addi 2#5 1#5 0xFFFF#16) ∧
      decodeTableWord 32 0x04020000 = none := by decide

/-! One step at a time, from spec/95_test_vectors.md section 2. -/

/-- `add $3, $1, $2`, little. -/
theorem test_add_overflow :
    endsWith (runs 0x00221820#32
        (bench .little 0x00400000#32 [(1#5, 0x80000000#32), (2#5, 0xFFFFFFFF#32)]))
      (.overflow 0x00400000#32) = true := by decide

/-- `add $3, $1, $2`, little. -/
theorem test_add_at_the_edge :
    leaves (runs 0x00221820#32
        (bench .little 0x00400000#32 [(1#5, 0x7FFFFFFF#32), (2#5, 0x80000000#32)]))
      (fun t => t.reg 3#5 == 0xFFFFFFFF#32 && t.pc == 0x00400004#32) = true := by decide

/-- `addi $2, $1, 0x7FFF`, little. -/
theorem test_addi_at_the_edge :
    leaves (runs 0x20227FFF#32 (bench .little 0x00400000#32 [(1#5, 0x7FFF8000#32)]))
      (fun t => t.reg 2#5 == 0x7FFFFFFF#32 && t.pc == 0x00400004#32) = true := by decide

/-- `addi $2, $1, -32768`, little. -/
theorem test_addi_overflow :
    endsWith (runs 0x20228000#32 (bench .little 0x00400000#32 [(1#5, 0x80007FFF#32)]))
      (.overflow 0x00400000#32) = true := by decide

/-- `addiu $2, $1, -1`, little. -/
theorem test_addiu_sign_extends :
    leaves (runs 0x2422FFFF#32 (bench .little 0x00400000#32 [(1#5, 0x80000000#32)]))
      (fun t => t.reg 2#5 == 0x7FFFFFFF#32 && t.pc == 0x00400004#32) = true := by decide

/-- `addiu $2, $1, 1`, little. -/
theorem test_addiu_wraps :
    leaves (runs 0x24220001#32 (bench .little 0x00400000#32 [(1#5, 0xFFFFFFFF#32)]))
      (fun t => t.reg 2#5 == 0x00000000#32 && t.pc == 0x00400004#32) = true := by decide

/-- `addu $3, $1, $2`, little. -/
theorem test_addu_past_the_edge :
    leaves (runs 0x00221821#32
        (bench .little 0x00400000#32 [(1#5, 0x7FFFFFFF#32), (2#5, 0x00000001#32)]))
      (fun t => t.reg 3#5 == 0x80000000#32 && t.pc == 0x00400004#32) = true := by decide

/-- `addu $3, $1, $2`, little. -/
theorem test_addu_wraps :
    leaves (runs 0x00221821#32
        (bench .little 0x00400000#32 [(1#5, 0xFFFFFFFF#32), (2#5, 0xFFFFFFFF#32)]))
      (fun t => t.reg 3#5 == 0xFFFFFFFE#32 && t.pc == 0x00400004#32) = true := by decide

/-- `sub $3, $1, $2`, little. -/
theorem test_sub_overflow :
    endsWith (runs 0x00221822#32
        (bench .little 0x00400000#32 [(1#5, 0x00000000#32), (2#5, 0x80000000#32)]))
      (.overflow 0x00400000#32) = true := by decide

/-- `sub $3, $1, $2`, little. -/
theorem test_sub_at_the_edge :
    leaves (runs 0x00221822#32
        (bench .little 0x00400000#32 [(1#5, 0xFFFFFFFF#32), (2#5, 0x80000000#32)]))
      (fun t => t.reg 3#5 == 0x7FFFFFFF#32 && t.pc == 0x00400004#32) = true := by decide

/-- `subu $3, $1, $2`, little. -/
theorem test_subu_wraps :
    leaves (runs 0x00221823#32
        (bench .little 0x00400000#32 [(1#5, 0x00000000#32), (2#5, 0x00000001#32)]))
      (fun t => t.reg 3#5 == 0xFFFFFFFF#32 && t.pc == 0x00400004#32) = true := by decide

/-- `subu $3, $1, $2`, little. -/
theorem test_subu_past_the_edge :
    leaves (runs 0x00221823#32
        (bench .little 0x00400000#32 [(1#5, 0x80000000#32), (2#5, 0x00000001#32)]))
      (fun t => t.reg 3#5 == 0x7FFFFFFF#32 && t.pc == 0x00400004#32) = true := by decide

/-- `and $3, $1, $2`, little. -/
theorem test_and :
    leaves (runs 0x00221824#32
        (bench .little 0x00400000#32 [(1#5, 0x0F0F0F0F#32), (2#5, 0x00FF00FF#32)]))
      (fun t => t.reg 3#5 == 0x000F000F#32 && t.pc == 0x00400004#32) = true := by decide

/-- `or $3, $1, $2`, little. -/
theorem test_or :
    leaves (runs 0x00221825#32
        (bench .little 0x00400000#32 [(1#5, 0x0F0F0F0F#32), (2#5, 0x00FF00FF#32)]))
      (fun t => t.reg 3#5 == 0x0FFF0FFF#32 && t.pc == 0x00400004#32) = true := by decide

/-- `xor $3, $1, $2`, little. -/
theorem test_xor :
    leaves (runs 0x00221826#32
        (bench .little 0x00400000#32 [(1#5, 0x0F0F0F0F#32), (2#5, 0x00FF00FF#32)]))
      (fun t => t.reg 3#5 == 0x0FF00FF0#32 && t.pc == 0x00400004#32) = true := by decide

/-- `nor $3, $1, $2`, little. -/
theorem test_nor :
    leaves (runs 0x00221827#32
        (bench .little 0x00400000#32 [(1#5, 0x0F0F0F0F#32), (2#5, 0x00FF00FF#32)]))
      (fun t => t.reg 3#5 == 0xF000F000#32 && t.pc == 0x00400004#32) = true := by decide

/-- `nor $3, $0, $0`, little. -/
theorem test_nor_zero :
    leaves (runs 0x00001827#32 (bench .little 0x00400000#32 []))
      (fun t => t.reg 3#5 == 0xFFFFFFFF#32 && t.pc == 0x00400004#32) = true := by decide

/-- `xor $3, $1, $1`, little. -/
theorem test_xor_same :
    leaves (runs 0x00211826#32 (bench .little 0x00400000#32 [(1#5, 0x12345678#32)]))
      (fun t => t.reg 3#5 == 0x00000000#32 && t.pc == 0x00400004#32) = true := by decide

/-- `andi $2, $1, 0xFF00`, little. -/
theorem test_andi :
    leaves (runs 0x3022FF00#32 (bench .little 0x00400000#32 [(1#5, 0x12345678#32)]))
      (fun t => t.reg 2#5 == 0x00005600#32 && t.pc == 0x00400004#32) = true := by decide

/-- `andi $2, $1, 0xFFFF`, little. -/
theorem test_andi_zero_extends :
    leaves (runs 0x3022FFFF#32 (bench .little 0x00400000#32 [(1#5, 0xFFFFFFFF#32)]))
      (fun t => t.reg 2#5 == 0x0000FFFF#32 && t.pc == 0x00400004#32) = true := by decide

/-- `ori $2, $1, 0x8000`, little. -/
theorem test_ori_zero_extends :
    leaves (runs 0x34228000#32 (bench .little 0x00400000#32 [(1#5, 0x12345678#32)]))
      (fun t => t.reg 2#5 == 0x1234D678#32 && t.pc == 0x00400004#32) = true := by decide

/-- `xori $2, $1, 0xFFFF`, little. -/
theorem test_xori_low_half :
    leaves (runs 0x3822FFFF#32 (bench .little 0x00400000#32 [(1#5, 0x12345678#32)]))
      (fun t => t.reg 2#5 == 0x1234A987#32 && t.pc == 0x00400004#32) = true := by decide

/-- `lui $2, 0xFFFF`, little. -/
theorem test_lui :
    leaves (runs 0x3C02FFFF#32 (bench .little 0x00400000#32 []))
      (fun t => t.reg 2#5 == 0xFFFF0000#32 && t.pc == 0x00400004#32) = true := by decide

/-- `lui $0, 0x1234`, little. -/
theorem test_lui_to_register_zero :
    leaves (runs 0x3C001234#32 (bench .little 0x00400000#32 []))
      (fun t => t.reg 0#5 == 0x00000000#32 && t.pc == 0x00400004#32) = true := by decide

/-- `slt $3, $1, $2`, little. -/
theorem test_slt_signed :
    leaves (runs 0x0022182A#32
        (bench .little 0x00400000#32 [(1#5, 0xFFFFFFFF#32), (2#5, 0x00000001#32)]))
      (fun t => t.reg 3#5 == 0x00000001#32 && t.pc == 0x00400004#32) = true := by decide

/-- `slt $3, $1, $2`, little. -/
theorem test_slt_extremes :
    leaves (runs 0x0022182A#32
        (bench .little 0x00400000#32 [(1#5, 0x80000000#32), (2#5, 0x7FFFFFFF#32)]))
      (fun t => t.reg 3#5 == 0x00000001#32 && t.pc == 0x00400004#32) = true := by decide

/-- `sltu $3, $1, $2`, little. -/
theorem test_sltu_unsigned :
    leaves (runs 0x0022182B#32
        (bench .little 0x00400000#32 [(1#5, 0xFFFFFFFF#32), (2#5, 0x00000001#32)]))
      (fun t => t.reg 3#5 == 0x00000000#32 && t.pc == 0x00400004#32) = true := by decide

/-- `sltu $3, $1, $2`, little. -/
theorem test_sltu_extremes :
    leaves (runs 0x0022182B#32
        (bench .little 0x00400000#32 [(1#5, 0x80000000#32), (2#5, 0x7FFFFFFF#32)]))
      (fun t => t.reg 3#5 == 0x00000000#32 && t.pc == 0x00400004#32) = true := by decide

/-- `slti $2, $1, -1`, little. -/
theorem test_slti :
    leaves (runs 0x2822FFFF#32 (bench .little 0x00400000#32 [(1#5, 0xFFFFFFFE#32)]))
      (fun t => t.reg 2#5 == 0x00000001#32 && t.pc == 0x00400004#32) = true := by decide

/-- `slti $2, $1, 0x7FFF`, little. -/
theorem test_slti_extremes :
    leaves (runs 0x28227FFF#32 (bench .little 0x00400000#32 [(1#5, 0x80000000#32)]))
      (fun t => t.reg 2#5 == 0x00000001#32 && t.pc == 0x00400004#32) = true := by decide

/-- `sltiu $2, $1, -32768`, little. -/
theorem test_sltiu_sign_extends :
    leaves (runs 0x2C228000#32 (bench .little 0x00400000#32 [(1#5, 0xFFFF7FFF#32)]))
      (fun t => t.reg 2#5 == 0x00000001#32 && t.pc == 0x00400004#32) = true := by decide

/-- `sltiu $2, $1, -32768`, little. -/
theorem test_sltiu_equal :
    leaves (runs 0x2C228000#32 (bench .little 0x00400000#32 [(1#5, 0xFFFF8000#32)]))
      (fun t => t.reg 2#5 == 0x00000000#32 && t.pc == 0x00400004#32) = true := by decide

/-- `sll $3, $2, 4`, little. -/
theorem test_sll_drops_the_top :
    leaves (runs 0x00021900#32 (bench .little 0x00400000#32 [(2#5, 0x80000001#32)]))
      (fun t => t.reg 3#5 == 0x00000010#32 && t.pc == 0x00400004#32) = true := by decide

/-- `sll $3, $2, 31`, little. -/
theorem test_sll_31 :
    leaves (runs 0x00021FC0#32 (bench .little 0x00400000#32 [(2#5, 0x00000003#32)]))
      (fun t => t.reg 3#5 == 0x80000000#32 && t.pc == 0x00400004#32) = true := by decide

/-- `srl $3, $2, 4`, little. -/
theorem test_srl_fills_zeros :
    leaves (runs 0x00021902#32 (bench .little 0x00400000#32 [(2#5, 0x80000010#32)]))
      (fun t => t.reg 3#5 == 0x08000001#32 && t.pc == 0x00400004#32) = true := by decide

/-- `srl $3, $2, 31`, little. -/
theorem test_srl_31 :
    leaves (runs 0x00021FC2#32 (bench .little 0x00400000#32 [(2#5, 0x80000010#32)]))
      (fun t => t.reg 3#5 == 0x00000001#32 && t.pc == 0x00400004#32) = true := by decide

/-- `sra $3, $2, 4`, little. -/
theorem test_sra_fills_signs :
    leaves (runs 0x00021903#32 (bench .little 0x00400000#32 [(2#5, 0x80000010#32)]))
      (fun t => t.reg 3#5 == 0xF8000001#32 && t.pc == 0x00400004#32) = true := by decide

/-- `sra $3, $2, 31`, little. -/
theorem test_sra_31_positive :
    leaves (runs 0x00021FC3#32 (bench .little 0x00400000#32 [(2#5, 0x7FFFFFFF#32)]))
      (fun t => t.reg 3#5 == 0x00000000#32 && t.pc == 0x00400004#32) = true := by decide

/-- `sllv $3, $2, $1`, little. -/
theorem test_sllv_count_modulo_32 :
    leaves (runs 0x00221804#32
        (bench .little 0x00400000#32 [(1#5, 0x00000024#32), (2#5, 0x80000001#32)]))
      (fun t => t.reg 3#5 == 0x00000010#32 && t.pc == 0x00400004#32) = true := by decide

/-- `sllv $3, $2, $1`, little. -/
theorem test_sllv_31 :
    leaves (runs 0x00221804#32
        (bench .little 0x00400000#32 [(1#5, 0xFFFFFFFF#32), (2#5, 0x00000001#32)]))
      (fun t => t.reg 3#5 == 0x80000000#32 && t.pc == 0x00400004#32) = true := by decide

/-- `srlv $3, $2, $1`, little. -/
theorem test_srlv_count_modulo_32 :
    leaves (runs 0x00221806#32
        (bench .little 0x00400000#32 [(1#5, 0x00000024#32), (2#5, 0x80000010#32)]))
      (fun t => t.reg 3#5 == 0x08000001#32 && t.pc == 0x00400004#32) = true := by decide

/-- `srlv $3, $2, $1`, little. -/
theorem test_srlv_count_32 :
    leaves (runs 0x00221806#32
        (bench .little 0x00400000#32 [(1#5, 0x00000020#32), (2#5, 0x80000010#32)]))
      (fun t => t.reg 3#5 == 0x80000010#32 && t.pc == 0x00400004#32) = true := by decide

/-- `srav $3, $2, $1`, little. -/
theorem test_srav_31 :
    leaves (runs 0x00221807#32
        (bench .little 0x00400000#32 [(1#5, 0xFFFFFFFF#32), (2#5, 0x80000010#32)]))
      (fun t => t.reg 3#5 == 0xFFFFFFFF#32 && t.pc == 0x00400004#32) = true := by decide

/-- `srav $2, $2, $2`, little. -/
theorem test_srav_one_register :
    leaves (runs 0x00421007#32 (bench .little 0x00400000#32 [(2#5, 0x80000004#32)]))
      (fun t => t.reg 2#5 == 0xF8000000#32 && t.pc == 0x00400004#32) = true := by decide

/-- `mult $1, $2`, little. -/
theorem test_mult_largest :
    leaves (runs 0x00220018#32
        (bench .little 0x00400000#32 [(1#5, 0x80000000#32), (2#5, 0x80000000#32)]))
      (fun t => t.hi == 0x40000000#32 && t.lo == 0x00000000#32 &&
        t.pc == 0x00400004#32) = true := by decide

/-- `mult $1, $2`, little. -/
theorem test_mult_negative :
    leaves (runs 0x00220018#32
        (bench .little 0x00400000#32 [(1#5, 0x80000000#32), (2#5, 0x7FFFFFFF#32)]))
      (fun t => t.hi == 0xC0000000#32 && t.lo == 0x80000000#32 &&
        t.pc == 0x00400004#32) = true := by decide

/-- `multu $1, $2`, little. -/
theorem test_multu_largest :
    leaves (runs 0x00220019#32
        (bench .little 0x00400000#32 [(1#5, 0xFFFFFFFF#32), (2#5, 0xFFFFFFFF#32)]))
      (fun t => t.hi == 0xFFFFFFFE#32 && t.lo == 0x00000001#32 &&
        t.pc == 0x00400004#32) = true := by decide

/-- `multu $1, $2`, little. -/
theorem test_multu_not_signed :
    leaves (runs 0x00220019#32
        (bench .little 0x00400000#32 [(1#5, 0x00000007#32), (2#5, 0xFFFFFFFD#32)]))
      (fun t => t.hi == 0x00000006#32 && t.lo == 0xFFFFFFEB#32 &&
        t.pc == 0x00400004#32) = true := by decide

/-- `div $1, $2`, little. -/
theorem test_div_negative_numerator :
    leaves (runs 0x0022001A#32
        (bench .little 0x00400000#32 [(1#5, 0xFFFFFFF9#32), (2#5, 0x00000002#32)]))
      (fun t => t.hi == 0xFFFFFFFF#32 && t.lo == 0xFFFFFFFD#32 &&
        t.pc == 0x00400004#32) = true := by decide

/-- `div $1, $2`, little. -/
theorem test_div_most_negative_by_minus_one :
    leaves (runs 0x0022001A#32
        (bench .little 0x00400000#32 [(1#5, 0x80000000#32), (2#5, 0xFFFFFFFF#32)]))
      (fun t => t.hi == 0x00000000#32 && t.lo == 0x80000000#32 &&
        t.pc == 0x00400004#32) = true := by decide

/-- `divu $1, $2`, little. -/
theorem test_divu :
    leaves (runs 0x0022001B#32
        (bench .little 0x00400000#32 [(1#5, 0xFFFFFFFB#32), (2#5, 0x00000007#32)]))
      (fun t => t.hi == 0x00000006#32 && t.lo == 0x24924923#32 &&
        t.pc == 0x00400004#32) = true := by decide

/-- `divu $1, $2`, little. -/
theorem test_divu_not_signed :
    leaves (runs 0x0022001B#32
        (bench .little 0x00400000#32 [(1#5, 0x80000000#32), (2#5, 0xFFFFFFFF#32)]))
      (fun t => t.hi == 0x80000000#32 && t.lo == 0x00000000#32 &&
        t.pc == 0x00400004#32) = true := by decide

/-- `mfhi $3`, little. -/
theorem test_mfhi :
    leaves (runs 0x00001810#32
        (((bench .little 0x00400000#32 []).setHi 0xFFFFFFFF#32).setLo 0x11111111#32))
      (fun t => t.reg 3#5 == 0xFFFFFFFF#32 && t.pc == 0x00400004#32) = true := by decide

/-- `mflo $3`, little. -/
theorem test_mflo :
    leaves (runs 0x00001812#32
        (((bench .little 0x00400000#32 []).setHi 0xFFFFFFFF#32).setLo 0xFFFFFFFD#32))
      (fun t => t.reg 3#5 == 0xFFFFFFFD#32 && t.pc == 0x00400004#32) = true := by decide

/-- `mfhi $0`, little. -/
theorem test_mfhi_to_register_zero :
    leaves (runs 0x00000010#32 ((bench .little 0x00400000#32 []).setHi 0x12345678#32))
      (fun t => t.reg 0#5 == 0x00000000#32 && t.pc == 0x00400004#32) = true := by decide

/-- `mthi $1`, little. -/
theorem test_mthi :
    leaves (runs 0x00200011#32
        (((bench .little 0x00400000#32 [(1#5, 0x12345678#32)]).setHi 0x00000000#32).setLo 0x55555555#32))
      (fun t => t.hi == 0x12345678#32 && t.lo == 0x55555555#32 &&
        t.pc == 0x00400004#32) = true := by decide

/-- `mtlo $1`, little. -/
theorem test_mtlo :
    leaves (runs 0x00200013#32
        (((bench .little 0x00400000#32 [(1#5, 0x12345678#32)]).setHi 0x55555555#32).setLo 0x00000000#32))
      (fun t => t.lo == 0x12345678#32 && t.hi == 0x55555555#32 &&
        t.pc == 0x00400004#32) = true := by decide

/-- `beq $1, $2, 3`, little. -/
theorem test_beq_untaken :
    leaves (runs 0x10220003#32
        (bench .little 0x00400000#32 [(1#5, 0x00000005#32), (2#5, 0x00000006#32)]))
      (fun t => t.reg 2#5 == 0x00000006#32 && t.pc == 0x00400004#32) = true := by decide

/-- `beq $0, $0, -1`, little. -/
theorem test_beq_to_itself :
    leaves (runs 0x1000FFFF#32 (bench .little 0x00400000#32 []))
      (fun t => t.pc == 0x00400000#32) = true := by decide

/-- `bne $1, $2, 3`, little. -/
theorem test_bne_taken :
    leaves (runs 0x14220003#32
        (bench .little 0x00400000#32 [(1#5, 0x00000005#32), (2#5, 0x00000006#32)]))
      (fun t => t.reg 2#5 == 0x00000006#32 && t.pc == 0x00400010#32) = true := by decide

/-- `bne $1, $2, 3`, little. -/
theorem test_bne_untaken :
    leaves (runs 0x14220003#32
        (bench .little 0x00400000#32 [(1#5, 0x00000005#32), (2#5, 0x00000005#32)]))
      (fun t => t.reg 2#5 == 0x00000005#32 && t.pc == 0x00400004#32) = true := by decide

/-- `bgez $1, -2`, little. -/
theorem test_bgez_zero :
    leaves (runs 0x0421FFFE#32 (bench .little 0x00400000#32 [(1#5, 0x00000000#32)]))
      (fun t => t.reg 1#5 == 0x00000000#32 && t.reg 0#5 == 0x00000000#32 &&
        t.pc == 0x003FFFFC#32) = true := by decide

/-- `bgez $1, -2`, little. -/
theorem test_bgez_most_negative :
    leaves (runs 0x0421FFFE#32 (bench .little 0x00400000#32 [(1#5, 0x80000000#32)]))
      (fun t => t.reg 1#5 == 0x80000000#32 && t.pc == 0x00400004#32) = true := by decide

/-- `bgtz $1, 4`, little. -/
theorem test_bgtz_taken :
    leaves (runs 0x1C200004#32 (bench .little 0x00400000#32 [(1#5, 0x00000001#32)]))
      (fun t => t.reg 1#5 == 0x00000001#32 && t.pc == 0x00400014#32) = true := by decide

/-- `bgtz $1, 4`, little. -/
theorem test_bgtz_zero :
    leaves (runs 0x1C200004#32 (bench .little 0x00400000#32 [(1#5, 0x00000000#32)]))
      (fun t => t.reg 1#5 == 0x00000000#32 && t.reg 0#5 == 0x00000000#32 &&
        t.pc == 0x00400004#32) = true := by decide

/-- `blez $1, 4`, little. -/
theorem test_blez_zero :
    leaves (runs 0x18200004#32 (bench .little 0x00400000#32 [(1#5, 0x00000000#32)]))
      (fun t => t.reg 1#5 == 0x00000000#32 && t.reg 0#5 == 0x00000000#32 &&
        t.pc == 0x00400014#32) = true := by decide

/-- `blez $1, 4`, little. -/
theorem test_blez_untaken :
    leaves (runs 0x18200004#32 (bench .little 0x00400000#32 [(1#5, 0x00000001#32)]))
      (fun t => t.reg 1#5 == 0x00000001#32 && t.pc == 0x00400004#32) = true := by decide

/-- `bltz $1, -1`, little. -/
theorem test_bltz_taken :
    leaves (runs 0x0420FFFF#32 (bench .little 0x00400000#32 [(1#5, 0xFFFFFFFF#32)]))
      (fun t => t.reg 1#5 == 0xFFFFFFFF#32 && t.pc == 0x00400000#32) = true := by decide

/-- `bltz $1, -1`, little. -/
theorem test_bltz_zero :
    leaves (runs 0x0420FFFF#32 (bench .little 0x00400000#32 [(1#5, 0x00000000#32)]))
      (fun t => t.reg 1#5 == 0x00000000#32 && t.reg 0#5 == 0x00000000#32 &&
        t.pc == 0x00400004#32) = true := by decide

/-- `bgezal $1, 4`, little. -/
theorem test_bgezal_untaken_keeps_the_link :
    leaves (runs 0x04310004#32
        (bench .little 0x00400000#32 [(1#5, 0xFFFFFFFF#32), (31#5, 0x11111111#32)]))
      (fun t => t.reg 31#5 == 0x11111111#32 && t.pc == 0x00400004#32) = true := by decide

/-- `bgezal $31, 4`, little. -/
theorem test_bgezal_from_the_link :
    leaves (runs 0x07F10004#32 (bench .little 0x00400000#32 [(31#5, 0x00000001#32)]))
      (fun t => t.reg 31#5 == 0x00400004#32 && t.pc == 0x00400014#32) = true := by decide

/-- `bltzal $1, 4`, little. -/
theorem test_bltzal_taken :
    leaves (runs 0x04300004#32
        (bench .little 0x00400000#32 [(1#5, 0xFFFFFFFF#32), (31#5, 0x11111111#32)]))
      (fun t => t.reg 31#5 == 0x00400004#32 && t.pc == 0x00400014#32) = true := by decide

/-- `bltzal $1, 4`, little. -/
theorem test_bltzal_untaken_keeps_the_link :
    leaves (runs 0x04300004#32
        (bench .little 0x00400000#32 [(1#5, 0x00000000#32), (31#5, 0x11111111#32)]))
      (fun t => t.reg 31#5 == 0x11111111#32 && t.pc == 0x00400004#32) = true := by decide

/-- `j 0x0FFFFFFC`, little. -/
theorem test_j :
    leaves (runs 0x0BFFFFFF#32 (bench .little 0x00400000#32 []))
      (fun t => t.pc == 0x0FFFFFFC#32) = true := by decide

/-- `j 0x00000000`, little. -/
theorem test_j_from_the_last_word_of_a_region :
    leaves (runs 0x08000000#32 (bench .little 0x0FFFFFFC#32 []))
      (fun t => t.pc == 0x10000000#32) = true := by decide

/-- `jal 0x00400010`, little. -/
theorem test_jal :
    leaves (runs 0x0C100004#32 (bench .little 0x00400000#32 [(31#5, 0x11111111#32)]))
      (fun t => t.reg 31#5 == 0x00400004#32 && t.pc == 0x00400010#32) = true := by decide

/-- `jal 0x00000040`, little. -/
theorem test_jal_at_the_top :
    leaves (runs 0x0C000010#32 (bench .little 0xFFFFFFFC#32 [(31#5, 0x11111111#32)]))
      (fun t => t.reg 31#5 == 0x00000000#32 && t.pc == 0x00000040#32) = true := by decide

/-- `jalr $4, $4`, little. -/
theorem test_jalr_to_its_own_link :
    leaves (runs 0x00802009#32 (bench .little 0x00400000#32 [(4#5, 0x00400100#32)]))
      (fun t => t.reg 4#5 == 0x00400004#32 && t.pc == 0x00400100#32) = true := by decide

/-- `jalr $31, $4`, little. -/
theorem test_jalr_misaligned :
    leaves (runs 0x0080F809#32
        (bench .little 0x00400000#32 [(4#5, 0x00400102#32), (31#5, 0x11111111#32)]))
      (fun t => t.reg 31#5 == 0x00400004#32 && t.pc == 0x00400102#32) = true := by decide

/-- `jr $31`, little. -/
theorem test_jr :
    leaves (runs 0x03E00008#32 (bench .little 0x00400000#32 [(31#5, 0x00400010#32)]))
      (fun t => t.reg 31#5 == 0x00400010#32 && t.pc == 0x00400010#32) = true := by decide

/-- `jr $1`, little. -/
theorem test_jr_misaligned :
    leaves (runs 0x00200008#32 (bench .little 0x00400000#32 [(1#5, 0x00001002#32)]))
      (fun t => t.reg 1#5 == 0x00001002#32 && t.pc == 0x00001002#32) = true := by decide

/-- `lb $2, -1($1)`, little. -/
theorem test_lb :
    leaves (runs 0x8022FFFF#32 (bench .little 0x00400000#32 [(1#5, 0x00001001#32)]))
      (fun t => t.reg 2#5 == 0xFFFFFFA0#32 && t.pc == 0x00400004#32) = true := by decide

/-- `lbu $2, -1($1)`, little. -/
theorem test_lbu :
    leaves (runs 0x9022FFFF#32 (bench .little 0x00400000#32 [(1#5, 0x00001001#32)]))
      (fun t => t.reg 2#5 == 0x000000A0#32 && t.pc == 0x00400004#32) = true := by decide

/-- `lb $2, 0x1001($1)`, little. -/
theorem test_lb_address_wraps :
    leaves (runs 0x80221001#32 (bench .little 0x00400000#32 [(1#5, 0xFFFFFFFF#32)]))
      (fun t => t.reg 2#5 == 0xFFFFFFA0#32 && t.pc == 0x00400004#32) = true := by decide

/-- `lh $2, 2($1)`, little. -/
theorem test_lh :
    leaves (runs 0x84220002#32 (bench .little 0x00400000#32 [(1#5, 0x00001000#32)]))
      (fun t => t.reg 2#5 == 0xFFFFA3A2#32 && t.pc == 0x00400004#32) = true := by decide

/-- `lhu $2, 3($1)`, little. -/
theorem test_lhu_odd :
    endsWith (runs 0x94220003#32 (bench .little 0x00400000#32 [(1#5, 0x00001000#32)]))
      (.addressError 0x00400000#32 .load 0x00001003#32) = true := by decide

/-- `lw $0, 3($1)`, little. -/
theorem test_lw_misaligned_to_register_zero :
    endsWith (runs 0x8C200003#32 (bench .little 0x00400000#32 [(1#5, 0x00001000#32)]))
      (.addressError 0x00400000#32 .load 0x00001003#32) = true := by decide

/-- `sb $2, 5($1)`, little. -/
theorem test_sb :
    leaves (runs 0xA0220005#32
        (bench .little 0x00400000#32 [(1#5, 0x00001000#32), (2#5, 0x11223344#32)]))
      (fun t => t.readWord 0x00001004#32 == 0xB3B244B0#32 &&
        t.pc == 0x00400004#32) = true := by decide

/-- `sh $2, 5($1)`, little. -/
theorem test_sh_odd :
    endsWith (runs 0xA4220005#32
        (bench .little 0x00400000#32 [(1#5, 0x00001000#32), (2#5, 0x11223344#32)]))
      (.addressError 0x00400000#32 .store 0x00001005#32) = true := by decide

/-- `sw $2, -4($1)`, little. -/
theorem test_sw :
    leaves (runs 0xAC22FFFC#32
        (bench .little 0x00400000#32 [(1#5, 0x00001008#32), (2#5, 0x11223344#32)]))
      (fun t => t.readWord 0x00001004#32 == 0x11223344#32 &&
        t.pc == 0x00400004#32) = true := by decide

/-- `sw $2, 2($1)`, little. -/
theorem test_sw_misaligned :
    endsWith (runs 0xAC220002#32
        (bench .little 0x00400000#32 [(1#5, 0x00001000#32), (2#5, 0x11223344#32)]))
      (.addressError 0x00400000#32 .store 0x00001002#32) = true := by decide

/-- `lwl $2, 1($1)`, little. -/
theorem test_lwl :
    leaves (runs 0x88220001#32
        (bench .little 0x00400000#32 [(1#5, 0x00001000#32), (2#5, 0x11223344#32)]))
      (fun t => t.reg 2#5 == 0xA1A03344#32 && t.pc == 0x00400004#32) = true := by decide

/-- `lwr $2, 1($1)`, little. -/
theorem test_lwr :
    leaves (runs 0x98220001#32
        (bench .little 0x00400000#32 [(1#5, 0x00001000#32), (2#5, 0x11223344#32)]))
      (fun t => t.reg 2#5 == 0x11A3A2A1#32 && t.pc == 0x00400004#32) = true := by decide

/-- `swl $2, 1($1)`, little. -/
theorem test_swl :
    leaves (runs 0xA8220001#32
        (bench .little 0x00400000#32 [(1#5, 0x00001000#32), (2#5, 0x11223344#32)]))
      (fun t => t.readWord 0x00001000#32 == 0xA3A21122#32 &&
        t.pc == 0x00400004#32) = true := by decide

/-- `swr $2, 1($1)`, little. -/
theorem test_swr :
    leaves (runs 0xB8220001#32
        (bench .little 0x00400000#32 [(1#5, 0x00001000#32), (2#5, 0x11223344#32)]))
      (fun t => t.readWord 0x00001000#32 == 0x223344A0#32 &&
        t.pc == 0x00400004#32) = true := by decide

/-- `lbu $2, -1($1)`, big. -/
theorem test_lbu_big :
    leaves (runs 0x9022FFFF#32 (bench .big 0x00400000#32 [(1#5, 0x00001001#32)]))
      (fun t => t.reg 2#5 == 0x000000A0#32 && t.pc == 0x00400004#32) = true := by decide

/-- `lh $2, 2($1)`, big. -/
theorem test_lh_big :
    leaves (runs 0x84220002#32 (bench .big 0x00400000#32 [(1#5, 0x00001000#32)]))
      (fun t => t.reg 2#5 == 0xFFFFA2A3#32 && t.pc == 0x00400004#32) = true := by decide

/-- `lhu $2, 2($1)`, big. -/
theorem test_lhu_big :
    leaves (runs 0x94220002#32 (bench .big 0x00400000#32 [(1#5, 0x00001000#32)]))
      (fun t => t.reg 2#5 == 0x0000A2A3#32 && t.pc == 0x00400004#32) = true := by decide

/-- `lw $2, 8($1)`, big. -/
theorem test_lw_big :
    leaves (runs 0x8C220008#32 (bench .big 0x00400000#32 [(1#5, 0x00000FF8#32)]))
      (fun t => t.reg 2#5 == 0xA0A1A2A3#32 && t.pc == 0x00400004#32) = true := by decide

/-- `sb $2, 5($1)`, big. -/
theorem test_sb_big :
    leaves (runs 0xA0220005#32
        (bench .big 0x00400000#32 [(1#5, 0x00001000#32), (2#5, 0x11223344#32)]))
      (fun t => t.readWord 0x00001004#32 == 0xB044B2B3#32 &&
        t.pc == 0x00400004#32) = true := by decide

/-- `sh $2, 6($1)`, big. -/
theorem test_sh_big :
    leaves (runs 0xA4220006#32
        (bench .big 0x00400000#32 [(1#5, 0x00001000#32), (2#5, 0x11223344#32)]))
      (fun t => t.readWord 0x00001004#32 == 0xB0B13344#32 &&
        t.pc == 0x00400004#32) = true := by decide

/-- `lwl $2, 1($1)`, big. -/
theorem test_lwl_big :
    leaves (runs 0x88220001#32
        (bench .big 0x00400000#32 [(1#5, 0x00001000#32), (2#5, 0x11223344#32)]))
      (fun t => t.reg 2#5 == 0xA1A2A344#32 && t.pc == 0x00400004#32) = true := by decide

/-- `lwr $2, 1($1)`, big. -/
theorem test_lwr_big :
    leaves (runs 0x98220001#32
        (bench .big 0x00400000#32 [(1#5, 0x00001000#32), (2#5, 0x11223344#32)]))
      (fun t => t.reg 2#5 == 0x1122A0A1#32 && t.pc == 0x00400004#32) = true := by decide

/-- `swl $2, 1($1)`, big. -/
theorem test_swl_big :
    leaves (runs 0xA8220001#32
        (bench .big 0x00400000#32 [(1#5, 0x00001000#32), (2#5, 0x11223344#32)]))
      (fun t => t.readWord 0x00001000#32 == 0xA0112233#32 &&
        t.pc == 0x00400004#32) = true := by decide

/-- `swr $2, 1($1)`, big. -/
theorem test_swr_big :
    leaves (runs 0xB8220001#32
        (bench .big 0x00400000#32 [(1#5, 0x00001000#32), (2#5, 0x11223344#32)]))
      (fun t => t.readWord 0x00001000#32 == 0x3344A2A3#32 &&
        t.pc == 0x00400004#32) = true := by decide

/-- `syscall`, little. -/
theorem test_syscall :
    endsWith (runs 0x0000000C#32 (bench .little 0x00400000#32 []))
      (.syscall 0x00400000#32) = true := by decide

/-! The machine around the instructions. -/

/-- 10_state.md R21 and the defaults of 00_scope.md R4. -/
theorem test_reset :
    State.reset.reg 0#5 = 0x00000000#32 ∧ State.reset.pc = Config.resetPc ∧
      State.reset.platform = Config.platform := by decide

/-- From reset with nothing placed, the first word fetched is the all-zero word, `nop`. -/
theorem test_first_step_from_reset : fetch State.reset = .ok nop := by rfl

/-- A misaligned `pc` comes before everything else (60_exceptions.md R139). -/
theorem test_fetch_misaligned :
    endsWith (step (denying [⟨.fetch, 4, 0x1002, 0x1002⟩] (bench .little 0x00001002#32 [])))
      (.addressError 0x00001002#32 .fetch 0x00001002#32) = true := by decide

/-- A `pc` not admitted comes before the decoding (60_exceptions.md R139). -/
theorem test_fetch_denied :
    endsWith (step (denying [⟨.fetch, 4, 0x1000, 0x1000⟩] (bench .little 0x00001000#32 [])))
      (.addressError 0x00001000#32 .fetch 0x00001000#32) = true := by decide

/-- A word that is no instruction, in either byte order (30_encoding.md R50). -/
theorem test_fetch_reserved :
    endsWith (step (bench .little 0x00001004#32 []))
      (.reservedInstruction 0x00001004#32 0xB3B2B1B0#32) = true ∧
    endsWith (step (bench .big 0x00001004#32 []))
      (.reservedInstruction 0x00001004#32 0xB0B1B2B3#32) = true := by decide

/-- 44_load_store.md R128, its worked example. -/
theorem test_unaligned_load :
    leaves (runs 0x98220000#32
        (bench .little 0x00400000#32 [(1#5, 0x1001#32), (2#5, 0x11223344#32)]))
      (fun t => t.reg 2#5 == 0x11A3A2A1#32 && leaves (runs 0x88220003#32 t)
        (fun u => u.reg 2#5 == 0xB0A3A2A1#32)) = true ∧
    leaves (runs 0x88220000#32 (bench .big 0x00400000#32 [(1#5, 0x1001#32), (2#5, 0x11223344#32)]))
      (fun t => t.reg 2#5 == 0xA1A2A344#32 && leaves (runs 0x98220003#32 t)
        (fun u => u.reg 2#5 == 0xA1A2A3B0#32)) = true := by decide

/-- 44_load_store.md R129, its worked example. -/
theorem test_unaligned_store :
    leaves (runs 0xB8220000#32
        (bench .little 0x00400000#32 [(1#5, 0x1001#32), (2#5, 0x11223344#32)]))
      (fun t => leaves (runs 0xA8220003#32 t) (fun u => (List.range 8).map
        (fun n => u.byteAt (BitVec.ofNat 32 (0x1000 + n))) ==
          [0xA0#8, 0x44#8, 0x33#8, 0x22#8, 0x11#8, 0xB1#8, 0xB2#8, 0xB3#8])) = true ∧
    leaves (runs 0xA8220000#32 (bench .big 0x00400000#32 [(1#5, 0x1001#32), (2#5, 0x11223344#32)]))
      (fun t => leaves (runs 0xB8220003#32 t) (fun u => (List.range 8).map
        (fun n => u.byteAt (BitVec.ofNat 32 (0x1000 + n))) ==
          [0xA0#8, 0x11#8, 0x22#8, 0x33#8, 0x44#8, 0xB1#8, 0xB2#8, 0xB3#8])) = true := by decide

/-- A division by zero completes, whatever it leaves in HI and LO (42_muldiv.md R88, R89). -/
theorem test_division_by_zero_completes :
    (∃ t, exec (.div 1#5 2#5) (bench .little 0x00400000#32 [(1#5, 7#32)]) = .next t ∧
      t.pc = 0x00400004#32) ∧
    (∃ t, exec (.divu 1#5 2#5) (bench .little 0x00400000#32 []) = .next t ∧
      t.pc = 0x00400004#32) :=
  ⟨⟨_, rfl, rfl⟩, ⟨_, rfl, rfl⟩⟩

/-! What the obligations' hypotheses are met by, clause by clause and at the ends of their ranges. -/

/-- AddAddsOrRaisesOverflow: sums at and just outside both ends of the range. -/
theorem test_witness_add :
    (let s := bench .little 0x00400000#32 [(1#5, 0x7FFFFFFE#32), (2#5, 0x00000001#32)];
      (s.reg 1#5).toInt + (s.reg 2#5).toInt = 2 ^ 31 - 1) ∧
    (let s := bench .little 0x00400000#32 [(1#5, 0x80000001#32), (2#5, 0xFFFFFFFF#32)];
      (s.reg 1#5).toInt + (s.reg 2#5).toInt = -(2 ^ 31)) ∧
    (let s := bench .little 0x00400000#32 [(1#5, 0x80000000#32), (2#5, 0xFFFFFFFF#32)];
      (s.reg 1#5).toInt + (s.reg 2#5).toInt < -(2 ^ 31)) ∧
    (let s := bench .little 0x00400000#32 [(1#5, 0x7FFFFFFF#32), (2#5, 0x00000001#32)];
      (s.reg 1#5).toInt + (s.reg 2#5).toInt > 2 ^ 31 - 1) := by decide

/-- AddiAddsOrRaisesOverflow. -/
theorem test_witness_addi :
    (let s := bench .little 0x00400000#32 [(1#5, 0x7FFF8000#32)];
      (s.reg 1#5).toInt + (0x7FFF#16 : Imm16).toInt = 2 ^ 31 - 1) ∧
    (let s := bench .little 0x00400000#32 [(1#5, 0x80008000#32)];
      (s.reg 1#5).toInt + (0x8000#16 : Imm16).toInt = -(2 ^ 31)) ∧
    (let s := bench .little 0x00400000#32 [(1#5, 0x80007FFF#32)];
      (s.reg 1#5).toInt + (0x8000#16 : Imm16).toInt < -(2 ^ 31)) ∧
    (let s := bench .little 0x00400000#32 [(1#5, 0x7FFF8001#32)];
      (s.reg 1#5).toInt + (0x7FFF#16 : Imm16).toInt > 2 ^ 31 - 1) := by decide

/-- SubSubtractsOrRaisesOverflow. -/
theorem test_witness_sub :
    (let s := bench .little 0x00400000#32 [(1#5, 0xFFFFFFFF#32), (2#5, 0x80000000#32)];
      (s.reg 1#5).toInt - (s.reg 2#5).toInt = 2 ^ 31 - 1) ∧
    (let s := bench .little 0x00400000#32 [(1#5, 0x80000001#32), (2#5, 0x00000001#32)];
      (s.reg 1#5).toInt - (s.reg 2#5).toInt = -(2 ^ 31)) ∧
    (let s := bench .little 0x00400000#32 [(1#5, 0x80000000#32), (2#5, 0x00000001#32)];
      (s.reg 1#5).toInt - (s.reg 2#5).toInt < -(2 ^ 31)) ∧
    (let s := bench .little 0x00400000#32 [(1#5, 0x00000000#32), (2#5, 0x80000000#32)];
      (s.reg 1#5).toInt - (s.reg 2#5).toInt > 2 ^ 31 - 1) := by decide

/-- DivTruncatesTowardZero and DivuDividesUnsigned: a divisor other than 0, and 0. -/
theorem test_witness_division :
    (bench .little 0x00400000#32 [(2#5, 0x00000001#32)]).reg 2#5 ≠ 0#32 ∧
      (bench .little 0x00400000#32 [(1#5, 0x80000000#32)]).reg 2#5 = 0#32 := by decide

/-- OnlySixInstructionsWriteHiLo. -/
theorem test_witness_only_six_write_hi_lo :
    ∃ (i : Instr) (s t : State), s.platform.environment = .terminal ∧ exec i s = .next t ∧
      ¬ writesHiOrLo i :=
  ⟨.mfhi 3#5, (bench .little 0x00400000#32 []).setHi 0x12345678#32, _, rfl, rfl, fun h => h⟩

/-- BranchesThatLink: both signs. -/
theorem test_witness_branches_that_link :
    ((bench .little 0x00400000#32 []).reg 1#5).msb = false ∧
      ((bench .little 0x00400000#32 [(1#5, 0x80000000#32)]).reg 1#5).msb = true := by decide

/-- OnlyRegisterJumpsMisalignPc: the taken branch at the top of the address space. -/
theorem test_witness_only_register_jumps_misalign :
    ∃ (i : Instr) (s t : State), s.platform.environment = .terminal ∧ s.pcAligned ∧
      exec i s = .next t ∧ (∀ rs, i ≠ .jr rs) ∧ (∀ rd rs, i ≠ .jalr rd rs) :=
  ⟨.beq 0#5 0#5 0x7FFF#16, bench .little 0xFFFFFFFC#32 [], _, rfl, rfl, rfl,
    fun _ h => Instr.noConfusion h, fun _ _ h => Instr.noConfusion h⟩

/-- ByteLoads: admitted at the last address, and not admitted. -/
theorem test_witness_byte_loads :
    (let s := bench .little 0x00400000#32 [];
      0xFFFFFFFF#32 = s.effectiveAddress 1#5 0xFFFF#16 ∧
        s.admitted .load 0xFFFFFFFF#32 1 = true) ∧
    (let s := denying [⟨.load, 1, 0x1000, 0x1000⟩] (bench .little 0x00400000#32 [(1#5, 0x1000#32)]);
      0x1000#32 = s.effectiveAddress 1#5 0#16 ∧ s.admitted .load 0x1000#32 1 = false) := by decide

/-- HalfwordLoads: an even address in both byte orders, and an odd one. -/
theorem test_witness_halfword_loads :
    (let s := bench .little 0x00400000#32 [(1#5, 0x1000#32)];
      0x1002#32 = s.effectiveAddress 1#5 2#16 ∧
        0xA3A2#16 = s.byteAt (0x1002#32 + 1#32) ++ s.byteAt 0x1002#32 ∧
        (0x1002#32 : Word).getLsbD 0 = false ∧ s.admitted .load 0x1002#32 2 = true) ∧
    (let s := bench .big 0x00400000#32 [(1#5, 0x1000#32)];
      0x1002#32 = s.effectiveAddress 1#5 2#16 ∧
        0xA2A3#16 = s.byteAt 0x1002#32 ++ s.byteAt (0x1002#32 + 1#32) ∧
        (0x1002#32 : Word).getLsbD 0 = false ∧ s.admitted .load 0x1002#32 2 = true) ∧
    (let s := bench .little 0x00400000#32 [(1#5, 0x1000#32)];
      0xFFFFFFFF#32 = s.effectiveAddress 0#5 0xFFFF#16 ∧
        0x0000#16 = s.byteAt (0xFFFFFFFF#32 + 1#32) ++ s.byteAt 0xFFFFFFFF#32 ∧
        (0xFFFFFFFF#32 : Word).getLsbD 0 = true) := by decide

/-- WordLoads: a multiple of 4, and an address one past and one before a multiple of 4. -/
theorem test_witness_word_loads :
    let s := bench .little 0x00400000#32 [(1#5, 0x1000#32)];
    (0x1004#32 = s.effectiveAddress 1#5 4#16 ∧ (0x1004#32 : Word).extractLsb' 0 2 = 0b00#2 ∧
      s.admitted .load 0x1004#32 4 = true) ∧
    (0x1001#32 = s.effectiveAddress 1#5 1#16 ∧ (0x1001#32 : Word).extractLsb' 0 2 ≠ 0b00#2) ∧
    (0x1003#32 = s.effectiveAddress 1#5 3#16 ∧
      (0x1003#32 : Word).extractLsb' 0 2 ≠ 0b00#2) := by decide

/-- PartialWordLoads: the ends of the range of `k`, every byte admitted, in both byte orders. -/
theorem test_witness_partial_word_loads :
    (let s := bench .little 0x00400000#32 [(1#5, 0x1000#32)];
      (significance .little (s.effectiveAddress 1#5 0#16) = 0 ∧
        (leftBytes s.platform.endian (s.effectiveAddress 1#5 0#16)).all
          (fun a => s.admitted .load a 1) = true ∧
        (rightBytes s.platform.endian (s.effectiveAddress 1#5 0#16)).all
          (fun a => s.admitted .load a 1) = true)) ∧
    (let s := bench .little 0x00400000#32 [(1#5, 0x1000#32)];
      (significance .little (s.effectiveAddress 1#5 3#16) = 3 ∧
        (leftBytes s.platform.endian (s.effectiveAddress 1#5 3#16)).all
          (fun a => s.admitted .load a 1) = true ∧
        (rightBytes s.platform.endian (s.effectiveAddress 1#5 3#16)).all
          (fun a => s.admitted .load a 1) = true)) ∧
    (let s := bench .big 0x00400000#32 [(1#5, 0x1000#32)];
      (significance .big (s.effectiveAddress 1#5 0#16) = 3 ∧
        (leftBytes s.platform.endian (s.effectiveAddress 1#5 0#16)).all
          (fun a => s.admitted .load a 1) = true ∧
        (rightBytes s.platform.endian (s.effectiveAddress 1#5 0#16)).all
          (fun a => s.admitted .load a 1) = true)) ∧
    (let s := bench .big 0x00400000#32 [(1#5, 0x1000#32)];
      (significance .big (s.effectiveAddress 1#5 3#16) = 0 ∧
        (leftBytes s.platform.endian (s.effectiveAddress 1#5 3#16)).all
          (fun a => s.admitted .load a 1) = true ∧
        (rightBytes s.platform.endian (s.effectiveAddress 1#5 3#16)).all
          (fun a => s.admitted .load a 1) = true)) := by decide

/-- UnalignedLoadIdiom: an address whose bytes cross two words, in both byte orders. -/
theorem test_witness_unaligned_load :
    (let s := bench .little 0x00400000#32 [(1#5, 0x1001#32)];
      s.platform.denied = [] ∧ (2#5 : Reg) ≠ 1#5 ∧ 0x1001#32 = s.reg 1#5 ∧
        0xB0A3A2A1#32 = s.byteAt (0x1001#32 + 3#32) ++ s.byteAt (0x1001#32 + 2#32) ++
          s.byteAt (0x1001#32 + 1#32) ++ s.byteAt 0x1001#32) ∧
    (let s := bench .big 0x00400000#32 [(1#5, 0x1001#32)];
      s.platform.denied = [] ∧ (2#5 : Reg) ≠ 1#5 ∧ 0x1001#32 = s.reg 1#5 ∧
        0xA1A2A3B0#32 = s.byteAt 0x1001#32 ++ s.byteAt (0x1001#32 + 1#32) ++
          s.byteAt (0x1001#32 + 2#32) ++ s.byteAt (0x1001#32 + 3#32)) := by decide

/-- ByteStores: admitted at address 0, and not admitted. -/
theorem test_witness_byte_stores :
    (let s := bench .little 0x00400000#32 [];
      0x00000000#32 = s.effectiveAddress 1#5 0#16 ∧ s.admitted .store 0x00000000#32 1 = true) ∧
    (let s := denying [⟨.store, 1, 0, 0xFFF⟩] (bench .little 0x00400000#32 [(1#5, 0x0FFF#32)]);
      0x0FFF#32 = s.effectiveAddress 1#5 0#16 ∧ s.admitted .store 0x0FFF#32 1 = false) := by decide

/-- HalfwordStores: an even admitted address, and an odd one. -/
theorem test_witness_halfword_stores :
    let s := bench .big 0x00400000#32 [(1#5, 0x1000#32)];
    (0x1006#32 = s.effectiveAddress 1#5 6#16 ∧ (0x1006#32 : Word).getLsbD 0 = false ∧
      s.admitted .store 0x1006#32 2 = true) ∧
    (0x1005#32 = s.effectiveAddress 1#5 5#16 ∧ (0x1005#32 : Word).getLsbD 0 = true) := by decide

/-- WordStores: the last multiple of 4, and addresses that are none. -/
theorem test_witness_word_stores :
    let s := bench .big 0x00400000#32 [(1#5, 0x1000#32)];
    (0xFFFFFFFC#32 = s.effectiveAddress 0#5 0xFFFC#16 ∧
      (0xFFFFFFFC#32 : Word).extractLsb' 0 2 = 0b00#2 ∧
      s.admitted .store 0xFFFFFFFC#32 4 = true) ∧
    (0x1002#32 = s.effectiveAddress 1#5 2#16 ∧
      (0x1002#32 : Word).extractLsb' 0 2 ≠ 0b00#2) := by decide

/-- PartialWordStores: the ends of the range of `k`, every byte admitted, in both byte orders. -/
theorem test_witness_partial_word_stores :
    (let s := bench .little 0x00400000#32 [(1#5, 0x1000#32)];
      (significance .little (s.effectiveAddress 1#5 0#16) = 0 ∧
        (leftBytes s.platform.endian (s.effectiveAddress 1#5 0#16)).all
          (fun a => s.admitted .store a 1) = true ∧
        (rightBytes s.platform.endian (s.effectiveAddress 1#5 0#16)).all
          (fun a => s.admitted .store a 1) = true)) ∧
    (let s := bench .little 0x00400000#32 [(1#5, 0x1000#32)];
      (significance .little (s.effectiveAddress 1#5 3#16) = 3 ∧
        (leftBytes s.platform.endian (s.effectiveAddress 1#5 3#16)).all
          (fun a => s.admitted .store a 1) = true ∧
        (rightBytes s.platform.endian (s.effectiveAddress 1#5 3#16)).all
          (fun a => s.admitted .store a 1) = true)) ∧
    (let s := bench .big 0x00400000#32 [(1#5, 0x1000#32)];
      (significance .big (s.effectiveAddress 1#5 0#16) = 3 ∧
        (leftBytes s.platform.endian (s.effectiveAddress 1#5 0#16)).all
          (fun a => s.admitted .store a 1) = true ∧
        (rightBytes s.platform.endian (s.effectiveAddress 1#5 0#16)).all
          (fun a => s.admitted .store a 1) = true)) ∧
    (let s := bench .big 0x00400000#32 [(1#5, 0x1000#32)];
      (significance .big (s.effectiveAddress 1#5 3#16) = 0 ∧
        (leftBytes s.platform.endian (s.effectiveAddress 1#5 3#16)).all
          (fun a => s.admitted .store a 1) = true ∧
        (rightBytes s.platform.endian (s.effectiveAddress 1#5 3#16)).all
          (fun a => s.admitted .store a 1) = true)) := by decide

/-- UnalignedStoreIdiom: an address whose bytes cross two words. -/
theorem test_witness_unaligned_store :
    let s := bench .little 0x00400000#32 [(1#5, 0x1003#32)];
    s.platform.denied = [] ∧ 0x1003#32 = s.reg 1#5 := by decide

/-- AccessesNotAdmittedRaise: each kind and size at one address, and one byte of four. -/
theorem test_witness_accesses_not_admitted :
    [AccessKind.load, .store].all (fun kind => [1, 2, 4].all (fun n =>
      let s := denying [⟨kind, n, 0x1000, 0x1000⟩] (bench .little 0x00400000#32 [(1#5, 0x1000#32)]);
      s.effectiveAddress 1#5 0#16 == 0x1000#32 && !s.admitted kind 0x1000#32 n)) = true ∧
    [AccessKind.load, .store].all (fun kind =>
      let s := denying [⟨kind, 1, 0x1001, 0x1001⟩] (bench .little 0x00400000#32 [(1#5, 0x1001#32)]);
      s.effectiveAddress 1#5 0#16 == 0x1001#32 &&
      (leftBytes s.platform.endian 0x1001#32).any (fun a => !s.admitted kind a 1) &&
      (rightBytes s.platform.endian 0x1001#32).any (fun a => !s.admitted kind a 1)) = true := by decide

/-- SyscallTrapsToTheEnvironment and TakingAnException: both environments. -/
theorem test_witness_environments :
    (bench .little 0x00400000#32 []).platform.environment = .terminal ∧
      (resuming (bench .little 0x00400000#32 [])).platform.environment = .resuming := by decide

/-- StepsStopOnlyByATrapAtPc: a step that stops. -/
theorem test_witness_a_step_that_stops :
    step (bench .little 0x00001001#32 []) =
      .fault (.addressError 0x00001001#32 .fetch 0x00001001#32) := by rfl

/-- OnlyListedInstructionsRaise. -/
theorem test_witness_instructions_that_never_raise :
    (bench .little 0x00400000#32 []).platform.denied = [] ∧ ¬ canRaise (.lwl 2#5 1#16 1#5) :=
  ⟨rfl, fun h => h⟩

/-- StepRunsTheDecodedInstruction, in both byte orders. -/
theorem test_witness_step_runs :
    (let s := (bench .little 0xFFFFFFFC#32 []).withFetchWord 32 0x00221820;
      (s.pc.extractLsb' 0 2 = 0b00#2 ∧ s.admitted .fetch s.pc 4 = true ∧
        decode (s.readWord s.pc) = .ok (.add 3#5 1#5 2#5))) ∧
    (let s := (bench .big 0xFFFFFFFC#32 []).withFetchWord 32 0x00221820;
      (s.pc.extractLsb' 0 2 = 0b00#2 ∧ s.admitted .fetch s.pc 4 = true ∧
        decode (s.readWord s.pc) = .ok (.add 3#5 1#5 2#5))) := by
  decide

/-- FetchExceptionsAndTheirPriority: the three clauses. -/
theorem test_witness_fetch_exceptions :
    (bench .little 0x00001003#32 []).pc.extractLsb' 0 2 ≠ 0b00#2 ∧
    (let s := denying [⟨.fetch, 4, 0x1000, 0x1000⟩] (bench .little 0x00001000#32 []);
      s.pc.extractLsb' 0 2 = 0b00#2 ∧ s.admitted .fetch s.pc 4 = false) ∧
    (let s := bench .little 0x00001004#32 [];
      s.pc.extractLsb' 0 2 = 0b00#2 ∧ s.admitted .fetch s.pc 4 = true ∧
        wellFormed (s.readWord s.pc) = false) := by decide

/-- StoredInstructionsAreFetched. -/
theorem test_witness_stored_instructions :
    let s := bench .big 0x00001004#32 [];
    (0x00001004#32 : Word).extractLsb' 0 2 = 0b00#2 ∧
      s.admitted .fetch 0x00001004#32 4 = true ∧ s.pc = 0x00001004#32 := by decide

/-- OnlyTheDestinationRegisterChanges: a destination, and destination 0. -/
theorem test_witness_only_the_destination :
    (∃ (i : Instr) (s t : State), s.platform.environment = .terminal ∧ exec i s = .next t ∧
      destination i ≠ some 1#5) ∧
    (∃ (i : Instr) (s t : State), s.platform.environment = .terminal ∧ exec i s = .next t ∧
      destination i = some 0#5) :=
  ⟨⟨.jal 0#26, bench .little 0x00400000#32 [], _, rfl, rfl, by decide⟩,
    ⟨.jalr 0#5 4#5, bench .little 0x00400000#32 [], _, rfl, rfl, rfl⟩⟩

/-- OnlyStoresChangeMemory. -/
theorem test_witness_only_stores :
    ∃ (i : Instr) (s t : State), s.platform.environment = .terminal ∧ exec i s = .next t ∧
      ¬ isStore i :=
  ⟨.lbu 2#5 0#16 1#5, bench .little 0x00400000#32 [(1#5, 0x1000#32)], _, rfl, rfl, fun h => h⟩

/-- StepsKeepThePlatform and StepsKeepMemoryCanonical: a step that stores a byte that an unlisted
address reads as, from a canonical memory. -/
theorem test_witness_steps_keep :
    let s := (bench .big 0x00400000#32 [(1#5, 0x1000#32)]).withFetchWord 32 0xA0200000
    s.mem.wf ∧ leaves (step s) (fun t => decide t.mem.wf && t.mem != s.mem) = true := by decide

/-- EncodeAfterDecode and DecoderAgreesWithTheOpcodeTable: a word that decodes. -/
theorem test_witness_a_word_that_decodes :
    decode 0xFC000000#32 = .error .opcode ∧
      decode 0xBBFFFFFF#32 = .ok (.swr 31#5 0xFFFF#16 31#5) := by
  decide

/-- AssembledTargetsReachTheirLabels: both ends of a branch's reach, and of a jump's region. -/
theorem test_witness_labels :
    branchImmediate 0x00400000#32 0x00420000#32 = some 0x7FFF#16 ∧
    branchImmediate 0x00400000#32 0x003E0004#32 = some 0x8000#16 ∧
    branchImmediate 0x00400000#32 0x00420004#32 = none ∧
    jumpImmediate 0x0FFFFFFC#32 0x10000000#32 = some 0#26 ∧
    jumpImmediate 0x00000000#32 0x0FFFFFFC#32 = some 0x3FFFFFF#26 ∧
    jumpImmediate 0x0FFFFFFC#32 0x0FFFFFFC#32 = none := by decide

end Sys2Proof.Tests
end

/-! The family 40_arith_logic.md: the instructions that never raise. Each one's register result, then
that result in the terms the statements use (bits, modular arithmetic, the signed order), then the
settled statements. -/

namespace Sys2Proof.Machine

/-! What each instruction writes (R60, R63, R65, R68 to R71, R76 to R78). -/

section Results

variable (s : State) (rd rs rt : Reg) (imm : Imm16)

theorem writesRegister_and :
    writesRegister (.and rd rs rt) s rd (s.reg rs &&& s.reg rt) :=
  writesRegister_of_result rfl

theorem writesRegister_or :
    writesRegister (.or rd rs rt) s rd (s.reg rs ||| s.reg rt) :=
  writesRegister_of_result rfl

theorem writesRegister_xor :
    writesRegister (.xor rd rs rt) s rd (s.reg rs ^^^ s.reg rt) :=
  writesRegister_of_result rfl

theorem writesRegister_nor :
    writesRegister (.nor rd rs rt) s rd (~~~(s.reg rs ||| s.reg rt)) :=
  writesRegister_of_result rfl

theorem writesRegister_ori :
    writesRegister (.ori rt rs imm) s rt (s.reg rs ||| zext16 imm) :=
  writesRegister_of_result rfl

theorem writesRegister_xori :
    writesRegister (.xori rt rs imm) s rt (s.reg rs ^^^ zext16 imm) :=
  writesRegister_of_result rfl

theorem writesRegister_addiu :
    writesRegister (.addiu rt rs imm) s rt (trunc32 (uval (s.reg rs) + sval (sext16 imm))) :=
  writesRegister_of_result rfl

theorem writesRegister_subu :
    writesRegister (.subu rd rs rt) s rd (trunc32 (uval (s.reg rs) - uval (s.reg rt))) :=
  writesRegister_of_result rfl

theorem writesRegister_slt :
    writesRegister (.slt rd rs rt) s rd (truthWord (signedLess (s.reg rs) (s.reg rt))) :=
  writesRegister_of_result rfl

end Results

/-! The results in the statements' terms. -/

/-- The bits of a zero-extended immediate: its own below bit 16, zeros from there on (R45). -/
theorem getLsbD_zext16 (h : BitVec 16) {k : Nat} (hk : k < 32) :
    (zext16 h).getLsbD k = (decide (k < 16) && h.getLsbD k) := by
  have hbits : (zext16 h).getLsbD k = h.getLsbD k := by
    simp [zext16, hk]
  by_cases hlow : k < 16
  · simp [hbits, hlow]
  · have hzero : h.getLsbD k = false := BitVec.getLsbD_of_ge h k (by omega)
    simp [hbits, hzero]

/-- A bit of a `nor` is 1 iff both operands' bits are 0 (R68). -/
theorem getLsbD_not_or (a b : Word) {k : Nat} (hk : k < 32) :
    (~~~(a ||| b)).getLsbD k = (!a.getLsbD k && !b.getLsbD k) := by
  rw [BitVec.getLsbD_not, BitVec.getLsbD_or, Bool.not_or, decide_eq_true hk, Bool.true_and]

/-- The exact sum of an unsigned and a signed reading, cut to 32 bits, is the modular sum (R63). -/
theorem trunc32_uval_add_sval (a b : Word) : trunc32 (uval a + sval b) = a + b := by
  rw [trunc32_add, trunc32_uval, trunc32_sval]

/-- The exact difference of two unsigned readings, cut to 32 bits, is the modular difference (R76). -/
theorem trunc32_uval_sub_uval (a b : Word) : trunc32 (uval a - uval b) = a - b := by
  rw [trunc32_sub, trunc32_uval, trunc32_uval]

/-- The truth word of the signed comparison is 1 or 0 by the order of the two's complement readings
(R71, R79). -/
theorem truthWord_signedLess (a b : Word) :
    truthWord (signedLess a b) =
      if a.toInt < b.toInt then 0x00000001#32 else 0x00000000#32 := by
  by_cases h : a.toInt < b.toInt <;> simp [truthWord, signedLess, sval, h]

/-! The statements. -/

/-- Settles O6: each of the four writes a bitwise operation of the two registers, whose bits are the
operation of their bits. -/
theorem bitwiseRegisterInstructions : Obligations.BitwiseRegisterInstructions := by
  intro s rd rs rt
  refine ⟨⟨rfl, _, writesRegister_and s rd rs rt, ?and⟩, ⟨rfl, _, writesRegister_or s rd rs rt, ?or⟩,
    ⟨rfl, _, writesRegister_xor s rd rs rt, ?xor⟩, ⟨rfl, _, writesRegister_nor s rd rs rt, ?nor⟩⟩
  case and => exact fun k _ => BitVec.getLsbD_and
  case or => exact fun k _ => BitVec.getLsbD_or
  case xor => exact fun k _ => BitVec.getLsbD_xor
  case nor => exact fun k hk => getLsbD_not_or _ _ hk

/-- Settles O7: both write a bitwise operation of the register and the zero-extended immediate. -/
theorem bitwiseImmediateInstructions : Obligations.BitwiseImmediateInstructions := by
  intro s rt rs imm
  refine ⟨⟨rfl, _, writesRegister_ori s rs rt imm, fun k hk => ?ori⟩,
    ⟨rfl, _, writesRegister_xori s rs rt imm, fun k hk => ?xori⟩⟩
  case ori => rw [BitVec.getLsbD_or, getLsbD_zext16 imm hk]
  case xori => rw [BitVec.getLsbD_xor, getLsbD_zext16 imm hk]

/-- Settles O4: the exact sum and difference that `addiu` and `subu` cut to 32 bits are modular. -/
theorem unsignedSumsAndDifferencesWrap : Obligations.UnsignedSumsAndDifferencesWrap := by
  intro s rd rs rt imm
  have haddiu := writesRegister_addiu s rs rt imm
  have hsubu := writesRegister_subu s rd rs rt
  rw [trunc32_uval_add_sval] at haddiu
  rw [trunc32_uval_sub_uval] at hsubu
  exact ⟨rfl, rfl, haddiu, hsubu⟩

/-- Settles O9: `slt` writes the truth word of the signed comparison. -/
theorem setOnLessThanRegisters : Obligations.SetOnLessThanRegisters := by
  intro s rd rs rt
  have hslt := writesRegister_slt s rd rs rt
  rw [truthWord_signedLess] at hslt
  exact ⟨rfl, hslt⟩

end Sys2Proof.Machine

/-! The family 41_shift.md: what each instruction writes, the shifts as arithmetic on the value, then
the settled statements. -/

namespace Sys2Proof.Machine

/-! What each instruction writes (R81, R83, R84, R86). -/

section ShiftResults

variable (s : State) (rd rt rs : Reg) (sa : Shamt)

theorem writesRegister_sll :
    writesRegister (.sll rd rt sa) s rd (shl (s.reg rt) (fixedCount sa)) :=
  writesRegister_of_result rfl

theorem writesRegister_sra :
    writesRegister (.sra rd rt sa) s rd (shra (s.reg rt) (fixedCount sa)) :=
  writesRegister_of_result rfl

theorem writesRegister_srav :
    writesRegister (.srav rd rt rs) s rd (shra (s.reg rt) (variableCount (s.reg rs))) :=
  writesRegister_of_result rfl

theorem writesRegister_srlv :
    writesRegister (.srlv rd rt rs) s rd (shrl (s.reg rt) (variableCount (s.reg rs))) :=
  writesRegister_of_result rfl

end ShiftResults

/-! The shifts as arithmetic on the value (R80). -/

/-- A left shift multiplies by a power of two; the bits lost at the top are the reduction. -/
theorem toNat_shl (v : Word) (n : Nat) : (shl v n).toNat = v.toNat * 2 ^ n % 2 ^ 32 := by
  rw [shl, BitVec.toNat_shiftLeft, Nat.shiftLeft_eq]

/-- A right shift that inserts zeros divides the unsigned reading, rounding down. -/
theorem toNat_shrl (v : Word) (n : Nat) : (shrl v n).toNat = v.toNat / 2 ^ n := by
  rw [shrl, BitVec.toNat_ushiftRight, Nat.shiftRight_eq_div_pow]

/-- A right shift that copies the sign divides the signed reading, rounding down. -/
theorem toInt_shra (v : Word) (n : Nat) : (shra v n).toInt = v.toInt / 2 ^ n := by
  rw [shra, BitVec.toInt_sshiftRight, Int.shiftRight_eq_div_pow, Nat.cast_pow, Nat.cast_ofNat]

/-! The statements. -/

/-- Settles O11: `sll` and `sra` write the shifts of `x[rt]` by `sa`, read as a product modulo 2^32
and as a floor quotient. -/
theorem fixedShifts : Obligations.FixedShifts := by
  intro s rd rt sa
  refine ⟨⟨rfl, _, writesRegister_sll s rd rt sa, ?sll⟩,
    ⟨rfl, _, writesRegister_sra s rd rt sa, ?sra⟩⟩
  case sll => rw [toNat_shl, fixedCount_eq]
  case sra => rw [toInt_shra, fixedCount_eq]

/-- Settles O12: `srlv` and `srav` write the right shifts of `x[rt]` by `x[rs]` modulo 32, read as
floor quotients of the unsigned and of the signed value. -/
theorem variableShifts : Obligations.VariableShifts := by
  intro s rd rt rs
  refine ⟨⟨rfl, _, writesRegister_srlv s rd rt rs, ?srlv⟩,
    ⟨rfl, _, writesRegister_srav s rd rt rs, ?srav⟩⟩
  case srlv => rw [toNat_shrl, variableCount_eq]
  case srav => rw [toInt_shra, variableCount_eq]

end Sys2Proof.Machine

/-! The family 42_muldiv.md: what each instruction writes, the exact product and the unsigned quotient
and remainder as `BitVec` arithmetic, then the settled statements. -/

namespace Sys2Proof.Machine

/-! What each instruction writes (R87, R89 to R91, R94, R95). -/

/-- A product result leaves a pair that, read as `HI : LO`, is the product cut to 64 bits. -/
theorem writesHiLo_of_productResult {i : Instr} {s : State} {p : Int}
    (h : exec i s = s.productResult p) :
    ∃ hi lo : Word, writesHiLo i s hi lo ∧ (hi ++ lo : BitVec 64) = BitVec.ofInt 64 p :=
  ⟨_, _, writesHiLo_of_hiLoResult h,
    (BitVec.extractLsb'_append_extractLsb'_eq_extractLsb' rfl).trans BitVec.extractLsb'_eq_self⟩

/-- A word is zero iff its unsigned reading is: the test of `divu` on its divisor (R89). -/
theorem uval_eq_zero (a : Word) : uval a = 0 ↔ a = 0#32 := by
  rw [uval, Int.natCast_eq_zero, BitVec.toNat_eq, BitVec.toNat_zero]

section MulDivResults

variable (s : State) (rd rs rt : Reg)

theorem writesRegister_mfhi : writesRegister (.mfhi rd) s rd s.hi :=
  writesRegister_of_result rfl

theorem writesRegister_mflo : writesRegister (.mflo rd) s rd s.lo :=
  writesRegister_of_result rfl

theorem writesHiLo_mult :
    ∃ hi lo : Word, writesHiLo (.mult rs rt) s hi lo ∧
      (hi ++ lo : BitVec 64) = BitVec.ofInt 64 (sval (s.reg rs) * sval (s.reg rt)) :=
  writesHiLo_of_productResult rfl

theorem writesHiLo_multu :
    ∃ hi lo : Word, writesHiLo (.multu rs rt) s hi lo ∧
      (hi ++ lo : BitVec 64) = BitVec.ofInt 64 (uval (s.reg rs) * uval (s.reg rt)) :=
  writesHiLo_of_productResult rfl

theorem writesHiLo_divu_of_ne_zero (h : s.reg rt ≠ 0#32) :
    writesHiLo (.divu rs rt) s
      (trunc32 (uval (s.reg rs) - (uval (s.reg rs)).tdiv (uval (s.reg rt)) * uval (s.reg rt)))
      (trunc32 ((uval (s.reg rs)).tdiv (uval (s.reg rt)))) :=
  writesHiLo_of_hiLoResult (if_neg (mt (uval_eq_zero _).mp h))

theorem writesHiLo_divu_of_eq_zero (h : s.reg rt = 0#32) :
    writesHiLo (.divu rs rt) s (Config.div0 (s.reg rs) (s.reg rt) false).2
      (Config.div0 (s.reg rs) (s.reg rt) false).1 :=
  writesHiLo_of_hiLoResult (if_pos ((uval_eq_zero _).mpr h))

end MulDivResults

/-! The exact results in the statements' terms. -/

/-- The signed product of two words fits in 64 bits: it is at most 2^62 in magnitude (R94). -/
theorem toInt_ofInt_sval_mul_sval (a b : Word) :
    (BitVec.ofInt 64 (sval a * sval b)).toInt = a.toInt * b.toInt := by
  have hlow : -2 ^ 62 ≤ a.toInt * b.toInt := BitVec.le_toInt_mul_toInt
  have hhigh : a.toInt * b.toInt ≤ 2 ^ 62 := BitVec.toInt_mul_toInt_le
  rw [sval, sval]
  exact BitVec.toInt_ofInt_eq_self (by decide) (by omega) (by omega)

/-- The unsigned product of two words fits in 64 bits (R95). -/
theorem toNat_ofInt_uval_mul_uval (a b : Word) :
    (BitVec.ofInt 64 (uval a * uval b)).toNat = a.toNat * b.toNat := by
  have hfits : a.toNat * b.toNat < 2 ^ 32 * 2 ^ 32 := Nat.mul_lt_mul'' a.isLt b.isLt
  rw [uval, uval, ← Int.natCast_mul, BitVec.ofInt_natCast, BitVec.toNat_ofNat]
  exact Nat.mod_eq_of_lt hfits

/-- The quotient of two unsigned readings, truncated toward zero, is the unsigned one (R89). -/
theorem trunc32_uval_tdiv_uval (a b : Word) : trunc32 ((uval a).tdiv (uval b)) = a / b := by
  have hquotient : (uval a).tdiv (uval b) = uval (a / b) := by
    rw [uval, uval, uval, BitVec.toNat_udiv, Int.ofNat_tdiv]
  rw [hquotient, trunc32_uval]

/-- What the quotient leaves of an unsigned numerator is the unsigned remainder (R89). -/
theorem trunc32_uval_sub_tdiv_mul (a b : Word) :
    trunc32 (uval a - (uval a).tdiv (uval b) * uval b) = a % b := by
  have hremainder : uval a - (uval a).tdiv (uval b) * uval b = uval (a % b) := by
    rw [mul_comm, ← Int.tmod_def, uval, uval, uval, BitVec.toNat_umod, Int.ofNat_tmod]
  rw [hremainder, trunc32_uval]

/-! The statements. -/

/-- Settles O14: `HI : LO` is the product cut to 64 bits, and neither the signed nor the unsigned
product of two words loses anything there. -/
theorem multiplyLeavesTheExactProduct : Obligations.MultiplyLeavesTheExactProduct := by
  intro s rs rt
  obtain ⟨hi, lo, hmult, hsigned⟩ := writesHiLo_mult s rs rt
  obtain ⟨hiu, lou, hmultu, hunsigned⟩ := writesHiLo_multu s rs rt
  refine ⟨⟨rfl, hi, lo, hmult, ?signed⟩, ⟨rfl, hiu, lou, hmultu, ?unsigned⟩⟩
  case signed => rw [hsigned, toInt_ofInt_sval_mul_sval]
  case unsigned => rw [hunsigned, toNat_ofInt_uval_mul_uval]

/-- Settles O16: by the two branches of `divu`; the truncated quotient of unsigned readings and what
it leaves are the unsigned quotient and remainder. -/
theorem divuDividesUnsigned : Obligations.DivuDividesUnsigned := by
  intro s rs rt
  refine ⟨rfl, fun hne => ?nonzero, writesHiLo_divu_of_eq_zero s rs rt⟩
  case nonzero =>
    have hdivu := writesHiLo_divu_of_ne_zero s rs rt hne
    rwa [trunc32_uval_sub_tdiv_mul, trunc32_uval_tdiv_uval] at hdivu

/-- Settles O17: both are a register result that copies HI or LO. -/
theorem movesFromHiAndLo : Obligations.MovesFromHiAndLo := by
  intro s rd
  exact ⟨rfl, rfl, writesRegister_mfhi s rd, writesRegister_mflo s rd⟩

end Sys2Proof.Machine

/-! The encoding (30_encoding.md). The fields of the three formats' words and, the other way round,
a word from its fields; then that the decoder and the encoder are inverse to each other, and that
the decoder agrees with the opcode table. -/

namespace Sys2Proof

/-! The fields of a word in a format (R41 to R44). -/

/-- Bits above the low part of a concatenation are bits of the high part. -/
theorem extractLsb'_append_high {n m : Nat} (hi : BitVec n) (lo : BitVec m) (k l : Nat) :
    (hi ++ lo).extractLsb' (m + k) l = hi.extractLsb' k l := by
  rw [BitVec.extractLsb'_append_eq_of_le (Nat.le_add_right m k), Nat.add_sub_cancel_left]

/-- The low part of a concatenation. -/
theorem extractLsb'_append_low {n m : Nat} (hi : BitVec n) (lo : BitVec m) :
    (hi ++ lo).extractLsb' 0 m = lo := by
  rw [BitVec.extractLsb'_append_eq_of_add_le (by omega), BitVec.extractLsb'_eq_self]

section Fields

variable (op funct : BitVec 6) (rs rt rd : Reg) (sa : Shamt) (imm : Imm16) (field : Imm26)

@[simp] theorem functField_rWord : functField (rWord rs rt rd sa funct) = funct :=
  extractLsb'_append_low _ _

@[simp] theorem saField_rWord : saField (rWord rs rt rd sa funct) = sa :=
  (extractLsb'_append_high _ funct 0 5).trans (extractLsb'_append_low _ _)

@[simp] theorem rdField_rWord : rdField (rWord rs rt rd sa funct) = rd :=
  (extractLsb'_append_high _ funct 5 5).trans <|
    (extractLsb'_append_high _ sa 0 5).trans (extractLsb'_append_low _ _)

@[simp] theorem rtField_rWord : rtField (rWord rs rt rd sa funct) = rt :=
  (extractLsb'_append_high _ funct 10 5).trans <| (extractLsb'_append_high _ sa 5 5).trans <|
    (extractLsb'_append_high _ rd 0 5).trans (extractLsb'_append_low _ _)

@[simp] theorem rsField_rWord : rsField (rWord rs rt rd sa funct) = rs :=
  (extractLsb'_append_high _ funct 15 5).trans <| (extractLsb'_append_high _ sa 10 5).trans <|
    (extractLsb'_append_high _ rd 5 5).trans <| (extractLsb'_append_high _ rt 0 5).trans <|
      extractLsb'_append_low _ _

@[simp] theorem opField_rWord : opField (rWord rs rt rd sa funct) = 0x00#6 :=
  (extractLsb'_append_high _ funct 20 6).trans <| (extractLsb'_append_high _ sa 15 6).trans <|
    (extractLsb'_append_high _ rd 10 6).trans <| (extractLsb'_append_high _ rt 5 6).trans <|
      (extractLsb'_append_high _ rs 0 6).trans BitVec.extractLsb'_eq_self

@[simp] theorem imm16Field_iWord : imm16Field (iWord op rs rt imm) = imm :=
  extractLsb'_append_low _ _

@[simp] theorem rtField_iWord : rtField (iWord op rs rt imm) = rt :=
  (extractLsb'_append_high _ imm 0 5).trans (extractLsb'_append_low _ _)

@[simp] theorem rsField_iWord : rsField (iWord op rs rt imm) = rs :=
  (extractLsb'_append_high _ imm 5 5).trans <|
    (extractLsb'_append_high _ rt 0 5).trans (extractLsb'_append_low _ _)

@[simp] theorem opField_iWord : opField (iWord op rs rt imm) = op :=
  (extractLsb'_append_high _ imm 10 6).trans <| (extractLsb'_append_high _ rt 5 6).trans <|
    (extractLsb'_append_high _ rs 0 6).trans BitVec.extractLsb'_eq_self

@[simp] theorem imm26Field_jWord : imm26Field (jWord op field) = field :=
  extractLsb'_append_low _ _

@[simp] theorem opField_jWord : opField (jWord op field) = op :=
  (extractLsb'_append_high _ field 0 6).trans BitVec.extractLsb'_eq_self

end Fields

/-! A word from its fields (R41 to R44). -/

/-- Two neighbouring extracts, glued. -/
theorem extractLsb'_append_extractLsb' (w : Word) (start m n : Nat) :
    w.extractLsb' (start + m) n ++ w.extractLsb' start m = w.extractLsb' start (n + m) :=
  BitVec.extractLsb'_append_extractLsb'_eq_extractLsb' rfl

theorem jWord_fields (w : Word) : jWord (opField w) (imm26Field w) = w :=
  (extractLsb'_append_extractLsb' w 0 26 6).trans BitVec.extractLsb'_eq_self

/-- The fields of the immediate format's upper half make up that half. -/
theorem upperHalf_fields (w : Word) :
    opField w ++ rsField w ++ rtField w = w.extractLsb' 16 16 :=
  (congrArg (fun v : BitVec 11 => v ++ rtField w) (extractLsb'_append_extractLsb' w 21 5 6)).trans
    (extractLsb'_append_extractLsb' w 16 5 11)

theorem iWord_fields (w : Word) : iWord (opField w) (rsField w) (rtField w) (imm16Field w) = w :=
  (congrArg (fun v : BitVec 16 => v ++ imm16Field w) (upperHalf_fields w)).trans <|
    (extractLsb'_append_extractLsb' w 0 16 16).trans BitVec.extractLsb'_eq_self

/-- The fields of the register format's lower half make up that half. -/
theorem lowerHalf_fields (w : Word) :
    rdField w ++ saField w ++ functField w = w.extractLsb' 0 16 :=
  (congrArg (fun v : BitVec 10 => v ++ functField w) (extractLsb'_append_extractLsb' w 6 5 5)).trans
    (extractLsb'_append_extractLsb' w 0 6 10)

theorem rWord_fields {w : Word} (hop : opField w = 0x00#6) :
    rWord (rsField w) (rtField w) (rdField w) (saField w) (functField w) = w := by
  have hassoc : rWord (rsField w) (rtField w) (rdField w) (saField w) (functField w) =
      iWord 0x00#6 (rsField w) (rtField w) (rdField w ++ saField w ++ functField w) := by
    rw [rWord, iWord]
    simp only [BitVec.append_assoc, BitVec.cast_eq]
  rw [hassoc, lowerHalf_fields, ← hop]
  exact iWord_fields w

/-! The decoder and the encoder (R46 to R51). -/

/-- A check of must-be-zero fields that passes gives the instruction it was asked for. -/
theorem ifZero_eq_ok {p : Prop} [Decidable p] {i j : Instr} :
    ifZero p i = .ok j ↔ p ∧ j = i := by
  by_cases hp : p <;> simp [ifZero, hp, eq_comm]

/-- An instruction the decoder accepts, as an equation for that instruction. -/
theorem ok_eq_ok {i j : Instr} : (.ok i : Except Reject Instr) = .ok j ↔ j = i := by
  rw [Except.ok.injEq, eq_comm]

theorem decode_rWord (rs rt rd : Reg) (sa : Shamt) (funct : BitVec 6) :
    decode (rWord rs rt rd sa funct) = decodeSpecial (rWord rs rt rd sa funct) := by
  simp only [decode, opField_rWord]

theorem decode_iWord_branchOnSign (rs code : Reg) (imm : Imm16) :
    decode (iWord 0x01#6 rs code imm) = decodeBranchOnSign (iWord 0x01#6 rs code imm) := by
  simp only [decode, opField_iWord]

/-- Settles O53, format by format: the decoder selects the arm by the Op-Code, then by the Function
Code or `code`, and finds in the fields what was put there. -/
theorem decodeAfterEncode : Obligations.DecodeAfterEncode := by
  intro i
  cases i with
  | add | addu | sub | subu | and | or | xor | nor | slt | sltu | sll | srl | sra | sllv | srlv
  | srav | mult | multu | div | divu | mfhi | mflo | mthi | mtlo | jr | jalr | syscall =>
    simp [encode, decode_rWord, decodeSpecial, ifZero]
  | bltz | bgez | bltzal | bgezal =>
    simp [encode, decode_iWord_branchOnSign, decodeBranchOnSign]
  | j | jal => simp [encode, decode]
  | blez | bgtz | lui => simp [encode, decode, ifZero]
  | beq | bne | addi | addiu | slti | sltiu | andi | ori | xori | lb | lh | lwl | lw | lbu | lhu
  | lwr | sb | sh | swl | sw | swr => simp [encode, decode]

/-- The register format has no bit that the fields checked and the operands leave out. -/
theorem encode_of_decodeSpecial {w : Word} {i : Instr} (hop : opField w = 0x00#6)
    (h : decodeSpecial w = .ok i) : encode i = w := by
  have hword := rWord_fields hop
  unfold decodeSpecial at h
  split at h <;> simp only [ifZero_eq_ok, reduceCtorEq] at h
  all_goals simp_all [encode]

/-- Nor has the branch-on-sign format. -/
theorem encode_of_decodeBranchOnSign {w : Word} {i : Instr} (hop : opField w = 0x01#6)
    (h : decodeBranchOnSign w = .ok i) : encode i = w := by
  have hword := iWord_fields w
  unfold decodeBranchOnSign at h
  split at h <;> simp only [ok_eq_ok, reduceCtorEq] at h
  all_goals simp_all [encode]

/-- Settles O54: in every arm of the decoder the instruction's word has the fields of `w`, and a
word is made up of its fields. -/
theorem encodeAfterDecode : Obligations.EncodeAfterDecode := by
  intro w i h
  have himmediate := iWord_fields w
  have hjump := jWord_fields w
  unfold decode at h
  split at h
  · next hop => exact encode_of_decodeSpecial hop h
  · next hop => exact encode_of_decodeBranchOnSign hop h
  all_goals
    simp only [ifZero_eq_ok, ok_eq_ok, reduceCtorEq] at h
  all_goals simp_all [encode]

/-- The decoder and the encoder, in one equivalence. -/
theorem decode_eq_ok_iff {w : Word} {i : Instr} : decode w = .ok i ↔ encode i = w :=
  ⟨encodeAfterDecode w i, fun h => h ▸ decodeAfterEncode i⟩

end Sys2Proof

/-! The opcode table and the decoder (30_encoding.md R46 to R51). A row selects a word by the word's
fields, so the decoder accepts every word that a row selects; no two rows can select one word. -/

namespace Sys2Proof

/-! A row, field by field. -/

theorem opField_and (v w : Word) : opField (v &&& w) = opField v &&& opField w :=
  BitVec.extractLsb'_and

theorem rsField_and (v w : Word) : rsField (v &&& w) = rsField v &&& rsField w :=
  BitVec.extractLsb'_and

theorem rtField_and (v w : Word) : rtField (v &&& w) = rtField v &&& rtField w :=
  BitVec.extractLsb'_and

theorem rdField_and (v w : Word) : rdField (v &&& w) = rdField v &&& rdField w :=
  BitVec.extractLsb'_and

theorem saField_and (v w : Word) : saField (v &&& w) = saField v &&& saField w :=
  BitVec.extractLsb'_and

theorem functField_and (v w : Word) : functField (v &&& w) = functField v &&& functField w :=
  BitVec.extractLsb'_and

theorem selects_iff {row : OpcodeRow} {w : Word} :
    row.selects w = true ↔ w &&& row.mask = row.pattern := beq_iff_eq

/-- What a row that selects a word says of the word's fields. -/
theorem fields_of_selects {row : OpcodeRow} {w : Word} (h : row.selects w = true) :
    opField w &&& opField row.mask = opField row.pattern ∧
    rsField w &&& rsField row.mask = rsField row.pattern ∧
    rtField w &&& rtField row.mask = rtField row.pattern ∧
    rdField w &&& rdField row.mask = rdField row.pattern ∧
    saField w &&& saField row.mask = saField row.pattern ∧
    functField w &&& functField row.mask = functField row.pattern := by
  rw [← opField_and, ← rsField_and, ← rtField_and, ← rdField_and, ← saField_and, ← functField_and,
    selects_iff.mp h]
  exact ⟨rfl, rfl, rfl, rfl, rfl, rfl⟩

theorem and_ones_five (f : BitVec 5) : f &&& 0x1F#5 = f := BitVec.and_allOnes (x := f)

/-- A word that a row selects has the fields of an arm of the decoder: the Op-Code, then the
Function Code or `code`, and zeros where the arm asks for them. -/
theorem decodes_of_selects {row : OpcodeRow} {w : Word} (hrow : row ∈ opcodeTable)
    (hsel : row.selects w = true) : ∃ i, decode w = .ok i := by
  have hfields := fields_of_selects hsel
  fin_cases hrow
  all_goals
    simp_all [decode, decodeSpecial, decodeBranchOnSign, ifZero, opField, rsField, rtField, rdField,
      saField, functField, Laws.and_ones_six, and_ones_five]

/-- Every instruction's word is selected by the row with its mnemonic. -/
theorem encodesRow (i : Instr) : Laws.EncodesRow.Statement i := by
  cases i with
  | add rd rs rt => exact Laws.EncodesRow.add rd rs rt
  | addi rt rs imm => exact Laws.EncodesRow.addi rt rs imm
  | addiu rt rs imm => exact Laws.EncodesRow.addiu rt rs imm
  | addu rd rs rt => exact Laws.EncodesRow.addu rd rs rt
  | and rd rs rt => exact Laws.EncodesRow.and rd rs rt
  | andi rt rs imm => exact Laws.EncodesRow.andi rt rs imm
  | beq rs rt imm => exact Laws.EncodesRow.beq rs rt imm
  | bgez rs imm => exact Laws.EncodesRow.bgez rs imm
  | bgezal rs imm => exact Laws.EncodesRow.bgezal rs imm
  | bgtz rs imm => exact Laws.EncodesRow.bgtz rs imm
  | blez rs imm => exact Laws.EncodesRow.blez rs imm
  | bltzal rs imm => exact Laws.EncodesRow.bltzal rs imm
  | bltz rs imm => exact Laws.EncodesRow.bltz rs imm
  | bne rs rt imm => exact Laws.EncodesRow.bne rs rt imm
  | div rs rt => exact Laws.EncodesRow.div rs rt
  | divu rs rt => exact Laws.EncodesRow.divu rs rt
  | j imm => exact Laws.EncodesRow.j imm
  | jal imm => exact Laws.EncodesRow.jal imm
  | jalr rd rs => exact Laws.EncodesRow.jalr rd rs
  | jr rs => exact Laws.EncodesRow.jr rs
  | lb rt offset rs => exact Laws.EncodesRow.lb rt offset rs
  | lbu rt offset rs => exact Laws.EncodesRow.lbu rt offset rs
  | lh rt offset rs => exact Laws.EncodesRow.lh rt offset rs
  | lhu rt offset rs => exact Laws.EncodesRow.lhu rt offset rs
  | lui rt imm => exact Laws.EncodesRow.lui rt imm
  | lw rt offset rs => exact Laws.EncodesRow.lw rt offset rs
  | lwl rt offset rs => exact Laws.EncodesRow.lwl rt offset rs
  | lwr rt offset rs => exact Laws.EncodesRow.lwr rt offset rs
  | mfhi rd => exact Laws.EncodesRow.mfhi rd
  | mflo rd => exact Laws.EncodesRow.mflo rd
  | mthi rs => exact Laws.EncodesRow.mthi rs
  | mtlo rs => exact Laws.EncodesRow.mtlo rs
  | mult rs rt => exact Laws.EncodesRow.mult rs rt
  | multu rs rt => exact Laws.EncodesRow.multu rs rt
  | nor rd rs rt => exact Laws.EncodesRow.nor rd rs rt
  | or rd rs rt => exact Laws.EncodesRow.or rd rs rt
  | ori rt rs imm => exact Laws.EncodesRow.ori rt rs imm
  | sb rt offset rs => exact Laws.EncodesRow.sb rt offset rs
  | sh rt offset rs => exact Laws.EncodesRow.sh rt offset rs
  | sll rd rt sa => exact Laws.EncodesRow.sll rd rt sa
  | sllv rd rt rs => exact Laws.EncodesRow.sllv rd rt rs
  | slt rd rs rt => exact Laws.EncodesRow.slt rd rs rt
  | slti rt rs imm => exact Laws.EncodesRow.slti rt rs imm
  | sltiu rt rs imm => exact Laws.EncodesRow.sltiu rt rs imm
  | sltu rd rs rt => exact Laws.EncodesRow.sltu rd rs rt
  | sra rd rt sa => exact Laws.EncodesRow.sra rd rt sa
  | srav rd rt rs => exact Laws.EncodesRow.srav rd rt rs
  | srl rd rt sa => exact Laws.EncodesRow.srl rd rt sa
  | srlv rd rt rs => exact Laws.EncodesRow.srlv rd rt rs
  | sub rd rs rt => exact Laws.EncodesRow.sub rd rs rt
  | subu rd rs rt => exact Laws.EncodesRow.subu rd rs rt
  | sw rt offset rs => exact Laws.EncodesRow.sw rt offset rs
  | swl rt offset rs => exact Laws.EncodesRow.swl rt offset rs
  | swr rt offset rs => exact Laws.EncodesRow.swr rt offset rs
  | syscall => exact Laws.EncodesRow.syscall
  | xor rd rs rt => exact Laws.EncodesRow.xor rd rs rt
  | xori rt rs imm => exact Laws.EncodesRow.xori rt rs imm

/-! The rows are disjoint (R51). -/

/-- Two rows that ask for different values of a bit which both cover. -/
def OpcodeRow.clashes (row other : OpcodeRow) : Bool :=
  row.mask &&& other.pattern != other.mask &&& row.pattern

/-- Rows that clash select no word in common: both would fix the bits that both cover. -/
theorem not_selects_of_clashes {row other : OpcodeRow} {w : Word}
    (hclash : row.clashes other = true) (hrow : row.selects w = true) :
    ¬ other.selects w = true := by
  intro hother
  rw [OpcodeRow.clashes, bne_iff_ne, ← selects_iff.mp hrow, ← selects_iff.mp hother] at hclash
  exact hclash (by ac_rfl)

theorem opcodeTable_clashes : opcodeTable.Pairwise (fun row other => row.clashes other = true) := by
  decide

theorem opcodeTable_mnemonics_nodup : (opcodeTable.map (·.mnemonic)).Nodup := by
  decide

/-- The rows other than one that selects a word do not select it. -/
def OpcodeRow.excludes (w : Word) (row other : OpcodeRow) : Prop :=
  row.selects w = true → ¬ other.selects w = true

theorem OpcodeRow.excludes_symm (w : Word) : Std.Symm (OpcodeRow.excludes w) :=
  ⟨fun _ _ h hother hrow => h hrow hother⟩

/-- At most one row selects a word. -/
theorem row_unique {row other : OpcodeRow} {w : Word} (hrow : row ∈ opcodeTable)
    (hother : other ∈ opcodeTable) (hsel : row.selects w = true)
    (hsel' : other.selects w = true) : row = other := by
  have hexcludes : opcodeTable.Pairwise (OpcodeRow.excludes w) :=
    opcodeTable_clashes.imp not_selects_of_clashes
  have hsymm := OpcodeRow.excludes_symm w
  by_contra hne
  exact hexcludes.forall hrow hother hne hsel hsel'

/-- A word decodes exactly when a row selects it (R50). -/
theorem decodes_iff_wellFormed (w : Word) : (∃ i, decode w = .ok i) ↔ wellFormed w = true := by
  rw [wellFormed, List.any_eq_true]
  constructor
  · rintro ⟨i, hi⟩
    obtain ⟨row, hrow, -, hsel⟩ := encodesRow i
    rw [decode_eq_ok_iff.mp hi] at hsel
    exact ⟨row, hrow, hsel⟩
  · rintro ⟨row, hrow, hsel⟩
    exact decodes_of_selects hrow hsel

/-- A row selects an instruction's word exactly when it has the instruction's mnemonic. -/
theorem selects_encode_iff {row : OpcodeRow} (hrow : row ∈ opcodeTable) (i : Instr) :
    row.selects (encode i) = true ↔ row.mnemonic = i.mnemonic := by
  obtain ⟨own, hown, hname, hsel⟩ := encodesRow i
  constructor
  · intro h
    rw [row_unique hrow hown h hsel, hname]
  · intro h
    rwa [List.inj_on_of_nodup_map opcodeTable_mnemonics_nodup hrow hown (h.trans hname.symm)]

/-- Settles O55: a word that decodes is its instruction's word, which the row with the mnemonic
selects and no other. -/
theorem decoderAgreesWithTheOpcodeTable : Obligations.DecoderAgreesWithTheOpcodeTable := by
  refine ⟨rfl, opcodeTable_mnemonics_nodup, fun w => ⟨decodes_iff_wellFormed w, ?_⟩⟩
  intro i hi row hrow
  rw [← decode_eq_ok_iff.mp hi]
  exact selects_encode_iff hrow i

end Sys2Proof

/-! Words as bytes (20_memory.md R25, R27), and sample words (30_encoding.md R46 to R50). -/

namespace Sys2Proof

/-- The four bytes of a word, given by their order in memory, make the word again. -/
theorem bytesWord_wordBytes (e : Endian) (w : Word) :
    ∃ b0 b1 b2 b3, wordBytes e w = [b0, b1, b2, b3] ∧ bytesWord e b0 b1 b2 b3 = w := by
  have hword : w.extractLsb' 24 8 ++ w.extractLsb' 16 8 ++ w.extractLsb' 8 8 ++ w.extractLsb' 0 8
      = w.extractLsb' 0 32 :=
    (congrArg (fun v : BitVec 16 => v ++ w.extractLsb' 8 8 ++ w.extractLsb' 0 8)
      (extractLsb'_append_extractLsb' w 16 8 8)).trans <|
    (congrArg (fun v : BitVec 24 => v ++ w.extractLsb' 0 8)
      (extractLsb'_append_extractLsb' w 8 8 16)).trans <| extractLsb'_append_extractLsb' w 0 8 24
  have hself := hword.trans BitVec.extractLsb'_eq_self
  cases e with
  | little => exact ⟨_, _, _, _, rfl, hself⟩
  | big => exact ⟨_, _, _, _, rfl, hself⟩

/-- Settles O56: the bytes of the instruction's word make that word again, which decodes to it. -/
theorem instructionBytesDecode : Obligations.InstructionBytesDecode := by
  intro e i rest
  obtain ⟨b0, b1, b2, b3, hbytes, hword⟩ := bytesWord_wordBytes e (encode i)
  simp [encodeBytes, hbytes, decodeBytes, hword, decodeAfterEncode i]

/-- Settles O57: each word is run through the decoder. -/
theorem sampleWordsDecode : Obligations.SampleWordsDecode := by
  unfold Obligations.SampleWordsDecode
  decide

end Sys2Proof

/-! What an instruction can do, said once (10_state.md R22, 60_exceptions.md R132): it completes in
one of five ways, or it raises. The invariants of a step follow from this. -/

namespace Sys2Proof.Machine

/-- The instructions whose target is a register, unchecked (43_branch_jump.md R110, R111). -/
def isRegisterJump : Instr → Prop
  | .jr _ | .jalr _ _ => True
  | _ => False

/-- A target that is a multiple of 4 if `pc` is, unless the instruction jumps to a register. -/
def keepsAlignment (i : Instr) (s : State) (target : Word) : Prop :=
  ¬ isRegisterJump i → s.pcAligned → target.extractLsb' 0 2 = 0b00#2

/-- The next state of an instruction that completes, by what it writes besides `pc`. -/
inductive Completes (i : Instr) (s : State) : State → Prop
  /-- A result in the destination register. -/
  | register {rd : Reg} (v : Word) (hrd : destination i = some rd) :
      Completes i s (s.setReg rd v).advance
  /-- Results in HI and LO. -/
  | hiLo (hi lo : Word) (hi_lo : writesHiOrLo i) : Completes i s ((s.setHi hi).setLo lo).advance
  /-- Bytes of memory. -/
  | store (cells : List (Word × Byte)) (hstore : isStore i) :
      Completes i s (s.writeCells cells).advance
  /-- Nothing. -/
  | jump {target : Word} (htarget : keepsAlignment i s target) : Completes i s (s.goto target)
  /-- The link in the destination register. -/
  | link {rd : Reg} {target : Word} (hrd : destination i = some rd)
      (htarget : keepsAlignment i s target) : Completes i s ((s.setReg rd s.npc).goto target)

/-- The instruction completes, or it raises an exception that it is listed for or that a platform
which denies accesses is the reason of. -/
def CompletesOrRaises (i : Instr) (s : State) : Prop :=
  (∃ t, exec i s = .next t ∧ Completes i s t) ∨
  (∃ e, exec i s = s.raise e ∧ (canRaise i ∨ s.platform.denied ≠ []))

/-! Alignment of the targets. -/

/-- An address whose two low bits are zero is a multiple of 4. -/
theorem extractLsb'_two_eq_zero (a : Word) :
    a.extractLsb' 0 2 = 0b00#2 ↔ a.toNat % 4 = 0 := by
  rw [BitVec.toNat_eq, BitVec.extractLsb'_toNat]
  rfl

theorem add_mul_four_aligned {a : Word} (h : a.extractLsb' 0 2 = 0b00#2) (n : Word) :
    (a + n * 4#32).extractLsb' 0 2 = 0b00#2 := by
  rw [extractLsb'_two_eq_zero] at h ⊢
  rw [BitVec.toNat_add, BitVec.toNat_mul, BitVec.toNat_ofNat]
  omega

theorem npc_aligned {s : State} (h : s.pcAligned) : s.npc.extractLsb' 0 2 = 0b00#2 :=
  add_mul_four_aligned h 1#32

theorem branchTarget_aligned {s : State} (h : s.pcAligned) (imm : Imm16) :
    (s.branchTarget imm).extractLsb' 0 2 = 0b00#2 := by
  rw [State.branchTarget_eq]
  exact add_mul_four_aligned (npc_aligned h) _

theorem jumpTarget_aligned (s : State) (imm : Imm26) :
    (s.jumpTarget imm).extractLsb' 0 2 = 0b00#2 :=
  extractLsb'_append_low _ _

/-! One lemma per shared operation. -/

section

variable {i : Instr} {s : State}

theorem completes_of_result {rd : Reg} {v : Word} (h : exec i s = s.result rd v)
    (hrd : destination i = some rd) : CompletesOrRaises i s :=
  .inl ⟨_, h, .register v hrd⟩

theorem completes_of_signedResult {rd : Reg} {n : Int} (h : exec i s = s.signedResult rd n)
    (hrd : destination i = some rd) (hraise : canRaise i) : CompletesOrRaises i s := by
  rcases s.signedResult_cases rd n with ⟨-, hnext⟩ | ⟨-, hover⟩
  · exact .inl ⟨_, h.trans hnext, .register _ hrd⟩
  · exact .inr ⟨_, h.trans hover, .inl hraise⟩

theorem completes_of_hiLoResult {hi lo : Word} (h : exec i s = s.hiLoResult hi lo)
    (hwrites : writesHiOrLo i) : CompletesOrRaises i s :=
  .inl ⟨_, h, .hiLo hi lo hwrites⟩

theorem completes_of_branch {taken : Bool} {imm : Imm16} (h : exec i s = s.branch taken imm) :
    CompletesOrRaises i s := by
  refine .inl ⟨_, h.trans (s.branch_eq taken imm), .jump fun _ haligned => ?_⟩
  cases taken with
  | true => exact branchTarget_aligned haligned imm
  | false => exact npc_aligned haligned

theorem completes_of_branchAndLink {taken : Bool} {imm : Imm16}
    (h : exec i s = s.branchAndLink taken imm) (hrd : destination i = some linkRegister) :
    CompletesOrRaises i s := by
  cases taken with
  | true => exact .inl ⟨_, h, .link hrd fun _ haligned => branchTarget_aligned haligned imm⟩
  | false => exact .inl ⟨_, h, .jump fun _ haligned => npc_aligned haligned⟩

/-- A platform that denies nothing admits every access (20_memory.md R31). -/
theorem admitted_of_denied_eq_nil (h : s.platform.denied = []) (kind : AccessKind) (a : Word)
    (n : Nat) : s.admitted kind a n = true := by
  simp [State.admitted, h]

/-- An access that is not admitted needs a row that denies it. -/
theorem denied_ne_nil {kind : AccessKind} {a : Word} {n : Nat} (h : s.admitted kind a n = false) :
    s.platform.denied ≠ [] := by
  intro hnil
  simp [admitted_of_denied_eq_nil hnil] at h

theorem completes_of_access {kind : AccessKind} {a : Word} {n : Nat} {done : State}
    (h : exec i s = s.access kind a n done) (hdone : Completes i s done)
    (hraise : n = 1 ∨ canRaise i) : CompletesOrRaises i s := by
  rcases s.access_cases kind a n done with ⟨-, -, hnext⟩ | ⟨hwhy, hraised⟩
  · exact .inl ⟨_, h.trans hnext, hdone⟩
  · refine .inr ⟨_, h.trans hraised, ?_⟩
    rcases hwhy with hmisaligned | hdenied
    · exact .inl (hraise.resolve_left fun hn => hmisaligned (hn ▸ Nat.mod_one _))
    · exact .inr (denied_ne_nil hdenied)

theorem completes_of_accessBytes {kind : AccessKind} {ea : Word} {addrs : List Word}
    {done : State} (h : exec i s = s.accessBytes kind ea addrs done)
    (hdone : Completes i s done) : CompletesOrRaises i s := by
  rcases s.accessBytes_cases kind ea addrs done with ⟨-, hnext⟩ | ⟨⟨a, -, hdenied⟩, hraised⟩
  · exact .inl ⟨_, h.trans hnext, hdone⟩
  · exact .inr ⟨_, h.trans hraised, .inr (denied_ne_nil hdenied)⟩

end

/-- Stored bytes are stored cells, so a store's next state is one of `Completes`. -/
theorem completes_writeBytes {i : Instr} (s : State) (a : Word) (bytes : List Byte)
    (hstore : isStore i) : Completes i s (s.writeBytes a bytes).advance := by
  rw [State.writeBytes_eq_writeCells]
  exact .store _ hstore

/-- Everything an instruction can do. -/
theorem completes_or_raises (i : Instr) (s : State) : CompletesOrRaises i s := by
  cases i with
  | add | addi | sub => exact completes_of_signedResult rfl rfl trivial
  | addiu | addu | and | andi | nor | or | ori | slt | slti | sltiu | sltu | subu | xor | xori
  | lui | sll | sllv | sra | srav | srl | srlv | mfhi | mflo => exact completes_of_result rfl rfl
  | mult | multu => exact completes_of_hiLoResult rfl trivial
  | div rs rt =>
    by_cases hzero : sval (s.reg rt) = 0
    · exact completes_of_hiLoResult (if_pos hzero) trivial
    · exact completes_of_hiLoResult (if_neg hzero) trivial
  | divu rs rt =>
    by_cases hzero : uval (s.reg rt) = 0
    · exact completes_of_hiLoResult (if_pos hzero) trivial
    · exact completes_of_hiLoResult (if_neg hzero) trivial
  | mthi rs => exact .inl ⟨_, rfl, .hiLo (s.reg rs) s.lo trivial⟩
  | mtlo rs => exact .inl ⟨_, rfl, .hiLo s.hi (s.reg rs) trivial⟩
  | beq | bne | bgez | bgtz | blez | bltz => exact completes_of_branch rfl
  | bgezal | bltzal => exact completes_of_branchAndLink rfl rfl
  | j imm => exact .inl ⟨_, rfl, .jump fun _ _ => jumpTarget_aligned s imm⟩
  | jal imm => exact .inl ⟨_, rfl, .link rfl fun _ _ => jumpTarget_aligned s imm⟩
  | jalr => exact .inl ⟨_, rfl, .link rfl fun hjump _ => (hjump trivial).elim⟩
  | jr => exact .inl ⟨_, rfl, .jump fun hjump _ => (hjump trivial).elim⟩
  | lb | lbu => exact completes_of_access rfl (.register _ rfl) (.inl rfl)
  | lh | lhu | lw => exact completes_of_access rfl (.register _ rfl) (.inr trivial)
  | lwl | lwr => exact completes_of_accessBytes rfl (.register _ rfl)
  | sb => exact completes_of_access rfl (.store [(_, _)] trivial) (.inl rfl)
  | sh | sw => exact completes_of_access rfl (completes_writeBytes s _ _ trivial) (.inr trivial)
  | swl | swr => exact completes_of_accessBytes rfl (.store _ trivial)
  | syscall => exact .inr ⟨_, rfl, .inl trivial⟩

/-! What a completed instruction leaves as it was. -/

section

variable {i : Instr} {s t : State}

theorem Completes.reg_eq (h : Completes i s t) {r : Reg} (hr : destination i ≠ some r) :
    t.reg r = s.reg r := by
  cases h with
  | register v hrd | link hrd =>
    have hne : r ≠ _ := fun heq => hr (heq ▸ hrd)
    simp [State.reg_setReg, hne]
  | hiLo | store | jump => simp

/-- A write to register 0 is discarded (10_state.md R11). -/
theorem Completes.reg_eq_of_zero (h : Completes i s t) (hzero : destination i = some 0#5)
    (r : Reg) : t.reg r = s.reg r := by
  cases h with
  | register v hrd | link hrd =>
    obtain rfl : _ = 0#5 := Option.some.inj (hrd.symm.trans hzero)
    simp
  | hiLo | store | jump => simp

theorem Completes.hiLo_eq (h : Completes i s t) (hi : ¬ writesHiOrLo i) :
    t.hi = s.hi ∧ t.lo = s.lo := by
  cases h with
  | hiLo _ _ hwrites => exact (hi hwrites).elim
  | register | store | jump | link => simp

theorem Completes.byteAt_eq (h : Completes i s t) (hi : ¬ isStore i) (a : Word) :
    t.byteAt a = s.byteAt a := by
  cases h with
  | store _ hstore => exact (hi hstore).elim
  | register | hiLo | jump | link => simp

theorem Completes.platform_eq (h : Completes i s t) : t.platform = s.platform := by
  cases h <;> simp

theorem Completes.inv (h : Completes i s t) (hs : s.Inv) : t.Inv := by
  unfold State.Inv at hs ⊢
  cases h with
  | store cells => exact State.writeCells_wf hs cells
  | register | hiLo | jump | link => simpa using hs

theorem Completes.pcAligned (h : Completes i s t) (hs : s.pcAligned) (hi : ¬ isRegisterJump i) :
    t.pcAligned := by
  cases h with
  | jump htarget | link _ htarget => exact htarget hi hs
  | register | hiLo | store => simpa [State.pcAligned, State.npc_eq] using npc_aligned hs

end

/-- Where nothing resumes a run, an instruction that gives a next state completed. -/
theorem completes_of_terminal {i : Instr} {s t : State}
    (henv : s.platform.environment = .terminal) (h : exec i s = .next t) : Completes i s t := by
  rcases completes_or_raises i s with ⟨u, hnext, hu⟩ | ⟨e, hraised, -⟩
  · obtain rfl : u = t := by simpa using hnext.symm.trans h
    exact hu
  · rw [State.raise_terminal henv, h] at hraised
    cases hraised

/-! Frames and invariants of one instruction. -/

/-- Settles O19: of what an instruction can write, only results in HI and LO touch them. -/
theorem onlySixInstructionsWriteHiLo : Obligations.OnlySixInstructionsWriteHiLo :=
  fun _ _ _ henv h hi => (completes_of_terminal henv h).hiLo_eq hi

/-- Settles O26: `pc + 4`, branch targets and jump targets are multiples of 4 where `pc` is. -/
theorem onlyRegisterJumpsMisalignPc : Obligations.OnlyRegisterJumpsMisalignPc := by
  intro i s t henv hs h hjr hjalr
  refine (completes_of_terminal henv h).pcAligned hs fun hjump => ?_
  cases i with
  | jr rs => exact hjr rs rfl
  | jalr rd rs => exact hjalr rd rs rfl
  | _ => exact hjump

/-- Settles O44: an exception that the instruction is not listed for needs a platform that denies
accesses. -/
theorem onlyListedInstructionsRaise : Obligations.OnlyListedInstructionsRaise := by
  intro i s hdenied hi
  rcases completes_or_raises i s with ⟨t, hnext, -⟩ | ⟨-, -, hlisted | hdenies⟩
  · exact ⟨t, hnext⟩
  · exact (hi hlisted).elim
  · exact (hdenies hdenied).elim

/-- Settles O48: a result and a link go to the destination, and register 0 discards both. -/
theorem onlyTheDestinationRegisterChanges : Obligations.OnlyTheDestinationRegisterChanges := by
  intro i s t henv h
  have hdone := completes_of_terminal henv h
  exact ⟨fun _ hr => hdone.reg_eq hr, hdone.reg_eq_of_zero⟩

/-- Settles O49: of what an instruction can write, only a store's cells touch memory. -/
theorem onlyStoresChangeMemory : Obligations.OnlyStoresChangeMemory :=
  fun _ _ _ henv h hi => (completes_of_terminal henv h).byteAt_eq hi

/-! One step. -/

/-- A step completes an instruction or raises an exception. -/
theorem step_completes_or_raises (s : State) :
    (∃ i t, step s = .next t ∧ Completes i s t) ∨ (∃ e, step s = s.raise e) := by
  rcases step_cases s with ⟨i, -, hexec⟩ | ⟨e, -, hraised⟩
  · rcases completes_or_raises i s with ⟨t, hnext, ht⟩ | ⟨e, hraised, -⟩
    · exact .inl ⟨i, t, hexec.trans hnext, ht⟩
    · exact .inr ⟨e, hexec.trans hraised⟩
  · exact .inr ⟨e, hraised⟩

/-- The next state of a step is a completed instruction's or a resuming environment's. -/
theorem completes_or_resumes_of_step {s t : State} (h : step s = .next t) :
    (∃ i, Completes i s t) ∨ ∃ trap, t = s.resume trap := by
  rcases step_completes_or_raises s with ⟨i, u, hnext, hu⟩ | ⟨e, hraised⟩
  · obtain rfl : u = t := by simpa using hnext.symm.trans h
    exact .inl ⟨i, hu⟩
  · rcases s.raise_cases e with ⟨-, hfault⟩ | ⟨-, hresume⟩
    · rw [h, hfault] at hraised
      cases hraised
    · rw [h, hresume] at hraised
      exact .inr ⟨_, by simpa using hraised⟩

/-- Settles O51: stores of bytes and the environment's stores keep the canonical form, and nothing
else touches memory. -/
theorem stepsKeepMemoryCanonical : Obligations.StepsKeepMemoryCanonical := by
  intro s t hs h
  rcases completes_or_resumes_of_step h with ⟨i, hdone⟩ | ⟨trap, rfl⟩
  · exact hdone.inv hs
  · exact State.resume_wf hs trap

/-- Settles O50: no completed instruction writes the platform, and no environment can. -/
theorem stepsKeepThePlatform : Obligations.StepsKeepThePlatform := by
  intro s t h
  rcases completes_or_resumes_of_step h with ⟨i, hdone⟩ | ⟨trap, rfl⟩
  · exact hdone.platform_eq
  · exact s.resume_platform trap

/-- The address that a trap outcome records is the one given to it. -/
theorem Exception.fault_epc (e : Exception) (epc : Word) : (e.fault epc).epc = epc := by
  cases e <;> rfl

/-- Settles O43: a step that raises is a trap at `pc` or goes on, and one that completes goes on. -/
theorem stepsStopOnlyByATrapAtPc : Obligations.StepsStopOnlyByATrapAtPc := by
  intro s
  rcases step_completes_or_raises s with ⟨i, t, hnext, -⟩ | ⟨e, hraised⟩
  · simp [hnext]
  · rcases s.raise_cases e with ⟨henv, hfault⟩ | ⟨-, hresume⟩
    · rw [hraised, hfault]
      refine ⟨by simp, ?_⟩
      rintro f ⟨⟩
      exact ⟨e.fault_epc s.pc, henv⟩
    · simp [hraised, hresume]

/-- A step whose fetch raises takes that exception. -/
theorem step_of_fetch_error {s : State} {e : Exception} (h : fetch s = .error e) :
    step s = s.raise e := by
  simp [step, h]

/-- A step whose fetch gives an instruction runs it. -/
theorem step_of_fetch_ok {s : State} {i : Instr} (h : fetch s = .ok i) : step s = exec i s := by
  simp [step, h]

theorem fetch_of_decode {s : State} {i : Instr} (haligned : s.pcAligned)
    (hadm : s.admitted .fetch s.pc 4 = true) (hdecode : decode (s.readWord s.pc) = .ok i) :
    fetch s = .ok i := by
  unfold State.pcAligned at haligned
  simp [fetch, haligned, hadm, hdecode]

/-- Settles O45: the fetch passes both checks and the decode. -/
theorem stepRunsTheDecodedInstruction : Obligations.StepRunsTheDecodedInstruction :=
  fun _ _ haligned hadm hdecode => step_of_fetch_ok (fetch_of_decode haligned hadm hdecode)

/-- Settles O46: the branches of fetch in their order; a word that no row selects does not decode.
-/
theorem fetchExceptionsAndTheirPriority : Obligations.FetchExceptionsAndTheirPriority := by
  intro s
  unfold State.pcAligned
  refine ⟨fun hmisaligned => ?misaligned, fun haligned hadm => ?denied,
    fun haligned hadm hword => ?reserved⟩
  case misaligned => exact step_of_fetch_error (by simp [fetch, hmisaligned])
  case denied => exact step_of_fetch_error (by simp [fetch, haligned, hadm])
  case reserved =>
    have hdecode : ¬ ∃ i, decode (s.readWord s.pc) = .ok i := by
      rw [decodes_iff_wellFormed, hword]
      exact Bool.false_ne_true
    refine step_of_fetch_error ?_
    cases hd : decode (s.readWord s.pc) with
    | ok i => exact (hdecode ⟨i, hd⟩).elim
    | error r => simp [fetch, haligned, hadm, hd]

/-! Exceptions and reset. -/

/-- Settles O42: the two environments; `syscall` alone has its place of resumption from the model.
-/
theorem takingAnException : Obligations.TakingAnException := by
  intro s e
  refine ⟨fun henv => ?terminal, fun henv => ?resuming⟩
  case terminal =>
    rw [State.raise_terminal henv]
    cases e <;> rfl
  case resuming =>
    refine ⟨_, _, State.raise_resuming henv e, rfl, ?pc, rfl, rfl, rfl, s.resume_byteAt _,
      fun a => ?byte, s.resume_platform _⟩
    case pc => cases e <;> rfl
    case byte => rw [State.resume_byteAt, State.byteAt_writeCells]

/-- Settles O41: `syscall` only raises. -/
theorem syscallTrapsToTheEnvironment : Obligations.SyscallTrapsToTheEnvironment := by
  intro s
  refine ⟨rfl, fun henv => State.raise_terminal henv .syscall, fun henv => ?resuming⟩
  case resuming =>
    exact ⟨_, State.raise_resuming henv .syscall, rfl, s.resume_platform _, State.reg_zero _⟩

/-- Settles O52: the fields of the reset state. -/
theorem resetState : Obligations.ResetState :=
  ⟨rfl, rfl, rfl, Memory.wf_nil⟩

end Sys2Proof.Machine

/-! The families 40_arith_logic.md to 43_branch_jump.md: sums and differences that can overflow, the
comparisons with an immediate, `div`, the branches and the jumps. -/

namespace Sys2Proof.Machine

/-! Immediates and comparisons in the statements' terms. -/

/-- Sign extension keeps the signed reading (R45). -/
theorem sval_sext16 (imm : Imm16) : sval (sext16 imm) = imm.toInt :=
  BitVec.toInt_signExtend_of_le (by decide)

/-- The truth word of the unsigned comparison is 1 or 0 by the order of the unsigned readings (R73,
R74). -/
theorem truthWord_unsignedLess (a b : Word) :
    truthWord (unsignedLess a b) =
      if a.toNat < b.toNat then 0x00000001#32 else 0x00000000#32 := by
  by_cases h : a.toNat < b.toNat <;> simp [truthWord, unsignedLess, uval, h]

/-! Signed results (R60, R79, R136). -/

/-- A signed result in range is a completed register write. -/
theorem writesRegister_of_signedResult {i : Instr} {s : State} {rd : Reg} {n : Int}
    (h : exec i s = s.signedResult rd n) (hlow : -(2 ^ 31) ≤ n) (hhigh : n ≤ 2 ^ 31 - 1) :
    writesRegister i s rd (trunc32 n) := by
  rcases s.signedResult_cases rd n with ⟨-, hnext⟩ | ⟨hover, -⟩
  · exact writesRegister_of_result (h.trans hnext)
  · rw [overflows_iff] at hover
    omega

/-- A signed result out of range raises. -/
theorem raises_of_signedResult {i : Instr} {s : State} {rd : Reg} {n : Int}
    (h : exec i s = s.signedResult rd n) (hout : n < -(2 ^ 31) ∨ n > 2 ^ 31 - 1) :
    exec i s = s.raise .overflow := by
  rcases s.signedResult_cases rd n with ⟨hfits, -⟩ | ⟨-, hraised⟩
  · rw [(overflows_iff n).mpr hout] at hfits
    cases hfits
  · exact h.trans hraised

/-- Settles O1: the exact sum, in range or not; in range it is the modular one. -/
theorem addAddsOrRaisesOverflow : Obligations.AddAddsOrRaisesOverflow := by
  intro s rd rs rt
  have hexec : exec (.add rd rs rt) s =
      s.signedResult rd (sval (s.reg rs) + sval (s.reg rt)) := rfl
  refine ⟨rfl, fun ⟨hlow, hhigh⟩ => ?inRange, raises_of_signedResult hexec⟩
  case inRange =>
    have hadd := writesRegister_of_signedResult hexec hlow hhigh
    rwa [trunc32_add, trunc32_sval, trunc32_sval] at hadd

/-- Settles O2: as `add`, with the immediate's signed reading. -/
theorem addiAddsOrRaisesOverflow : Obligations.AddiAddsOrRaisesOverflow := by
  intro s rt rs imm
  have hexec : exec (.addi rt rs imm) s =
      s.signedResult rt (sval (s.reg rs) + sval (sext16 imm)) := rfl
  rw [← sval_sext16]
  refine ⟨rfl, fun ⟨hlow, hhigh⟩ => ?inRange, raises_of_signedResult hexec⟩
  case inRange =>
    have haddi := writesRegister_of_signedResult hexec hlow hhigh
    rwa [trunc32_add, trunc32_sval, trunc32_sval] at haddi

/-- Settles O3: as `add`, with the exact difference. -/
theorem subSubtractsOrRaisesOverflow : Obligations.SubSubtractsOrRaisesOverflow := by
  intro s rd rs rt
  have hexec : exec (.sub rd rs rt) s =
      s.signedResult rd (sval (s.reg rs) - sval (s.reg rt)) := rfl
  refine ⟨rfl, fun ⟨hlow, hhigh⟩ => ?inRange, raises_of_signedResult hexec⟩
  case inRange =>
    have hsub := writesRegister_of_signedResult hexec hlow hhigh
    rwa [trunc32_sub, trunc32_sval, trunc32_sval] at hsub

/-- The model's overflow test of a sum is the library's. -/
theorem overflows_sval_add (a b : Word) : overflows (sval a + sval b) = a.saddOverflow b := by
  rw [Bool.eq_iff_iff, overflows_iff, BitVec.saddOverflow, Bool.or_eq_true, decide_eq_true_iff,
    decide_eq_true_iff, sval, sval]
  omega

/-- The model's overflow test of a difference is the library's. -/
theorem overflows_sval_sub (a b : Word) : overflows (sval a - sval b) = a.ssubOverflow b := by
  rw [Bool.eq_iff_iff, overflows_iff, BitVec.ssubOverflow, Bool.or_eq_true, decide_eq_true_iff,
    decide_eq_true_iff, sval, sval]
  omega

/-- Settles O5: the library states its two overflow tests by sign bits. -/
theorem overflowIsASignBitTest : Obligations.OverflowIsASignBitTest := by
  intro a b
  rw [overflows_sval_add, overflows_sval_sub, BitVec.saddOverflow_eq, BitVec.ssubOverflow_eq]
  refine ⟨by simp, ?_⟩
  cases a.msb <;> cases b.msb <;> simp

/-! Logical and comparison instructions with an immediate, and the register instructions without a
figure. -/

/-- Settles O8: the bits of the zero-extended immediate, and the concatenation. -/
theorem andImmediateAndLoadUpperImmediate : Obligations.AndImmediateAndLoadUpperImmediate := by
  intro s rt rs imm
  refine ⟨⟨rfl, s.reg rs &&& zext16 imm, writesRegister_of_result rfl, fun k hk => ?bits⟩, rfl,
    writesRegister_of_result rfl⟩
  case bits =>
    rw [BitVec.getLsbD_and, getLsbD_zext16 imm hk, Bool.and_left_comm, Bool.and_assoc]

/-- Settles O10: both compare with the sign-extended immediate. -/
theorem setOnLessThanImmediates : Obligations.SetOnLessThanImmediates := by
  intro s rt rs imm
  have hslti : writesRegister (.slti rt rs imm) s rt
      (truthWord (signedLess (s.reg rs) (sext16 imm))) := writesRegister_of_result rfl
  have hsltiu : writesRegister (.sltiu rt rs imm) s rt
      (truthWord (unsignedLess (s.reg rs) (sext16 imm))) := writesRegister_of_result rfl
  rw [truthWord_signedLess, ← sval, ← sval, sval_sext16] at hslti
  rw [truthWord_unsignedLess] at hsltiu
  exact ⟨rfl, rfl, hslti, hsltiu⟩

/-- Settles O13: a modular sum, the unsigned comparison, and the shifts as arithmetic. -/
theorem registerInstructionsWithoutAFigure : Obligations.RegisterInstructionsWithoutAFigure := by
  intro s rd rs rt sa
  refine ⟨⟨rfl, _, writesRegister_of_result rfl, ?addu⟩, ⟨rfl, ?sltu⟩,
    ⟨rfl, _, writesRegister_of_result rfl, ?sllv⟩, ⟨rfl, _, writesRegister_of_result rfl, ?srl⟩⟩
  case addu => rw [trunc32_add, trunc32_uval, trunc32_uval, BitVec.toNat_add]
  case sltu =>
    rw [← truthWord_unsignedLess]
    exact writesRegister_of_result rfl
  case sllv => rw [toNat_shl, variableCount_eq]
  case srl => rw [toNat_shrl, fixedCount_eq]

/-! Division and the moves to HI and LO (42_muldiv.md). -/

/-- A word is zero iff its signed reading is: the test of `div` on its divisor (R88). -/
theorem sval_eq_zero (a : Word) : sval a = 0 ↔ a = 0#32 := by
  rw [sval, ← BitVec.toInt_inj, BitVec.toInt_zero]

/-- The remainder of a truncated division is zero or has the numerator's sign. -/
theorem tmod_sign (n d : Int) :
    n.tmod d = 0 ∨ (0 < n.tmod d ∧ 0 < n) ∨ (n.tmod d < 0 ∧ n < 0) := by
  by_cases hdvd : d ∣ n
  · exact .inl (Int.tmod_eq_zero_of_dvd hdvd)
  · have hsign : (n.tmod d).sign = n.sign := (Int.sign_tmod n d).trans (if_neg hdvd)
    rcases lt_trichotomy n 0 with hneg | rfl | hpos
    · rw [Int.sign_eq_neg_one_of_neg hneg, Int.sign_eq_neg_one_iff_neg] at hsign
      exact .inr (.inr ⟨hsign, hneg⟩)
    · exact .inl (Int.zero_tmod d)
    · rw [Int.sign_eq_one_of_pos hpos, Int.sign_eq_one_iff_pos] at hsign
      exact .inr (.inl ⟨hsign, hpos⟩)

/-- The remainder of a truncated division is smaller than the divisor. -/
theorem natAbs_tmod_lt (n : Int) {d : Int} (hd : d ≠ 0) : (n.tmod d).natAbs < d.natAbs := by
  rw [Int.natAbs_tmod]
  exact Nat.mod_lt _ (Int.natAbs_pos.mpr hd)

/-- Settles O15: the truncated quotient and what it leaves of the numerator. -/
theorem divTruncatesTowardZero : Obligations.DivTruncatesTowardZero := by
  intro s rs rt
  refine ⟨rfl, fun hne => ?nonzero, fun hzero => ?zero⟩
  case nonzero =>
    have hd : sval (s.reg rt) ≠ 0 := mt (sval_eq_zero _).mp hne
    have hdiv : writesHiLo (.div rs rt) s
        (trunc32 (sval (s.reg rs) - (sval (s.reg rs)).tdiv (sval (s.reg rt)) * sval (s.reg rt)))
        (trunc32 ((sval (s.reg rs)).tdiv (sval (s.reg rt)))) :=
      writesHiLo_of_hiLoResult (if_neg hd)
    rw [mul_comm, ← Int.tmod_def] at hdiv
    refine ⟨_, _, ?sum, ?bound, tmod_sign _ _, hdiv⟩
    case sum => exact (Int.tdiv_mul_add_tmod _ _).symm
    case bound => exact natAbs_tmod_lt _ hd
  case zero => exact writesHiLo_of_hiLoResult (if_pos ((sval_eq_zero _).mpr hzero))

/-- Settles O18: each of the two sets one of HI and LO and keeps the other. -/
theorem movesToHiAndLo : Obligations.MovesToHiAndLo := by
  intro s rs
  have hmthi : exec (.mthi rs) s = s.hiLoResult (s.reg rs) s.lo := rfl
  have hmtlo : exec (.mtlo rs) s = s.hiLoResult s.hi (s.reg rs) := rfl
  exact ⟨rfl, rfl, writesHiLo_of_hiLoResult hmthi, writesHiLo_of_hiLoResult hmtlo⟩

/-! Branches and jumps (43_branch_jump.md). -/

/-! The four conditions by the sign bit and by zero (R101, R103, R104, R106). -/

theorem ltZero_iff (a : Word) : ltZero a = true ↔ a.msb = true := by
  rw [BitVec.msb_eq_toInt, ltZero, sval]

theorem geZero_iff (a : Word) : geZero a = true ↔ a.msb = false := by
  simp [geZero, sval, BitVec.msb_eq_toInt]

theorem leZero_iff (a : Word) : leZero a = true ↔ a.msb = true ∨ a = 0#32 := by
  rw [BitVec.msb_eq_toInt, ← sval_eq_zero, leZero, sval, decide_eq_true_iff, decide_eq_true_iff]
  omega

theorem gtZero_iff (a : Word) : gtZero a = true ↔ a.msb = false ∧ a ≠ 0#32 := by
  rw [BitVec.msb_eq_toInt, ne_eq, ← sval_eq_zero, gtZero, sval, decide_eq_true_iff,
    decide_eq_false_iff_not]
  omega

/-- The branch target, its offset shifted left by two (R97). -/
theorem branchTarget_shift (s : State) (imm : Imm16) :
    s.branchTarget imm = s.pc + 4#32 + imm.signExtend 32 <<< 2 := by
  rw [State.branchTarget_eq, BitVec.shiftLeft_eq_mul_twoPow]
  rfl

section

variable {i : Instr} {s : State} {taken : Bool} {imm : Imm16}

/-- A branch jumps to its target or to the next instruction, by its condition. -/
theorem jumpsTo_of_branch {condition : Prop} [Decidable condition]
    (h : exec i s = s.branch taken imm) (hcondition : taken = true ↔ condition) :
    jumpsTo i s
      (if condition then s.pc + 4#32 + imm.signExtend 32 <<< 2 else s.pc + 4#32) := by
  rw [← branchTarget_shift]
  simp only [← hcondition]
  exact jumpsTo_of_goto (h.trans (s.branch_eq taken imm))

theorem jumpsAndLinks_of_branchAndLink (h : exec i s = s.branchAndLink taken imm)
    (htaken : taken = true) :
    jumpsAndLinks i s 31#5 (s.pc + 4#32 + imm.signExtend 32 <<< 2) := by
  rw [← branchTarget_shift]
  exact jumpsAndLinks_of_setReg (h.trans (congrArg Host.Outcome.next (if_pos htaken)))

theorem jumpsTo_of_branchAndLink (h : exec i s = s.branchAndLink taken imm)
    (htaken : ¬ taken = true) : jumpsTo i s (s.pc + 4#32) :=
  jumpsTo_of_goto (h.trans (congrArg Host.Outcome.next (if_neg htaken)))

end

/-- Settles O20: the conditions are the two tests of the registers' equality. -/
theorem branchesOnEquality : Obligations.BranchesOnEquality := by
  intro s rs rt imm
  refine ⟨rfl, rfl, jumpsTo_of_branch rfl beq_iff_eq, ?bne⟩
  case bne =>
    rw [← ite_not]
    exact jumpsTo_of_branch rfl bne_iff_ne

/-- Settles O21: the four signed comparisons with zero, by the sign bit and by zero. -/
theorem branchesOnSign : Obligations.BranchesOnSign := by
  intro s rs imm
  exact ⟨rfl, rfl, rfl, rfl, jumpsTo_of_branch rfl (geZero_iff _),
    jumpsTo_of_branch rfl (gtZero_iff _), jumpsTo_of_branch rfl (leZero_iff _),
    jumpsTo_of_branch rfl (ltZero_iff _)⟩

/-- Settles O22: the sign bit decides which of the two is taken. -/
theorem branchesThatLink : Obligations.BranchesThatLink := by
  intro s rs imm
  refine ⟨rfl, rfl, fun hclear => ⟨?_, ?_⟩, fun hset => ⟨?_, ?_⟩⟩
  · exact jumpsAndLinks_of_branchAndLink rfl ((geZero_iff _).mpr hclear)
  · exact jumpsTo_of_branchAndLink rfl (by simp [ltZero_iff, hclear])
  · exact jumpsAndLinks_of_branchAndLink rfl ((ltZero_iff _).mpr hset)
  · exact jumpsTo_of_branchAndLink rfl (by simp [geZero_iff, hset])

/-- The branch target from the offset in bytes. -/
theorem branchTarget_of_offset (s : State) {imm : Imm16} {bytes : Word}
    (h : sext16 imm * 4#32 = bytes) : s.branchTarget imm = s.pc + 4#32 + bytes := by
  rw [State.branchTarget_eq, h]

/-- Settles O23: the modular sum as an exact one cut to 32 bits, and at the four offsets named. -/
theorem branchTargetBase : Obligations.BranchTargetBase := by
  intro s
  refine ⟨fun imm => ?exact, ?itself, ?next, ?farthest, ?nearest⟩
  case exact =>
    rw [State.branchTarget_eq, ← sval_sext16, ← uval, ← trunc32, trunc32_add, trunc32_add,
      trunc32_mul, trunc32_uval, trunc32_sval, mul_comm]
    rfl
  case itself =>
    rw [branchTarget_of_offset s (bytes := -4#32) (by decide), BitVec.add_assoc]
    exact BitVec.add_zero s.pc
  case next =>
    rw [branchTarget_of_offset s (bytes := 0#32) (by decide)]
    exact BitVec.add_zero _
  case farthest => exact branchTarget_of_offset s (by decide)
  case nearest =>
    rw [BitVec.sub_eq_add_neg]
    exact branchTarget_of_offset s (by decide)

/-- Settles O24: the jump target is a concatenation of the three fields. -/
theorem jumpsWithinTheRegion : Obligations.JumpsWithinTheRegion := by
  intro s imm
  refine ⟨rfl, rfl, s.jumpTarget imm, ?region, ?field, jumpTarget_aligned s imm,
    jumpsTo_of_goto rfl, jumpsAndLinks_of_setReg rfl⟩
  case region =>
    exact (extractLsb'_append_high _ 0b00#2 26 4).trans <|
      (extractLsb'_append_high _ imm 0 4).trans BitVec.extractLsb'_eq_self
  case field =>
    exact (extractLsb'_append_high _ 0b00#2 0 26).trans (extractLsb'_append_low _ imm)

/-- Settles O25: both assign `pc` the register's value; `jalr` also writes the link. -/
theorem registerJumps : Obligations.RegisterJumps := by
  intro s rd rs
  exact ⟨rfl, rfl, jumpsAndLinks_of_setReg rfl, jumpsTo_of_goto rfl⟩

/-! Assembly (30_encoding.md R53 to R55). -/

/-- An exact offset in bytes that is a multiple of 4 and in reach is what its immediate stands for.
-/
theorem sext16_ofInt_mul_four {d : Int} (haligned : d % 4 = 0) (hlow : -32768 ≤ d / 4)
    (hhigh : d / 4 ≤ 32767) : sext16 (BitVec.ofInt 16 (d / 4)) * 4#32 = trunc32 d := by
  have hself : (BitVec.ofInt 16 (d / 4)).toInt = d / 4 :=
    BitVec.toInt_ofInt_eq_self (by decide) (by omega) (by omega)
  have hbytes : d / 4 * 4 = d := by omega
  rw [← trunc32_sval (sext16 _), sval_sext16, hself, ← congrArg trunc32 hbytes, trunc32_mul]
  rfl

/-- A label's address from its distance to the next instruction. -/
theorem add_trunc32_distance (b l : Word) : b + 4#32 + trunc32 (uval l - (uval b + 4)) = l := by
  rw [trunc32_sub, trunc32_add, trunc32_uval, trunc32_uval]
  exact add_sub_cancel (b + 4#32) l

/-- A word from its region, its field and its two low bits. -/
theorem region_field_low (l : Word) :
    l.extractLsb' 28 4 ++ l.extractLsb' 2 26 ++ l.extractLsb' 0 2 = l :=
  (congrArg (fun v : BitVec 30 => v ++ l.extractLsb' 0 2)
    (extractLsb'_append_extractLsb' l 2 26 4)).trans <|
      (extractLsb'_append_extractLsb' l 0 2 30).trans BitVec.extractLsb'_eq_self

/-- Settles O58: a branch's immediate is the distance in words, a jump's the label's own field. -/
theorem assembledTargetsReachTheirLabels : Obligations.AssembledTargetsReachTheirLabels := by
  intro s l
  refine ⟨fun imm h => ?branch, fun imm h => ?jump⟩
  case branch =>
    simp only [branchImmediate, Option.ite_none_right_eq_some, Option.some.injEq] at h
    obtain ⟨⟨haligned, hlow, hhigh⟩, rfl⟩ := h
    rw [branchTarget_of_offset s (sext16_ofInt_mul_four haligned hlow hhigh)]
    exact add_trunc32_distance s.pc l
  case jump =>
    simp only [jumpImmediate, Option.ite_none_right_eq_some, Option.some.injEq] at h
    obtain ⟨⟨hlow, hregion⟩, rfl⟩ := h
    rw [State.jumpTarget, State.npc_eq, ← hregion, ← hlow]
    exact region_field_low l

/-- Two writes of one register, one after the other: the second stands. -/
theorem RegisterEffect.trans {s t u : State} {rd : Reg} {v w : Word}
    (first : RegisterEffect s t rd v) (second : RegisterEffect t u rd w) :
    RegisterEffect s u rd w where
  regs r := by
    rw [second.regs, first.regs]
    split <;> rfl
  hi := second.hi.trans first.hi
  lo := second.lo.trans first.lo
  memory a := (second.memory a).trans (first.memory a)
  platform := second.platform.trans first.platform

/-- What a write of register 0 was asked to write is not seen. -/
theorem RegisterEffect.congr {s t : State} {rd : Reg} {v w : Word}
    (h : RegisterEffect s t rd v) (hvalue : rd ≠ 0#5 → v = w) : RegisterEffect s t rd w where
  regs r := by
    rw [h.regs]
    split
    · next hr => exact hvalue hr.2
    · rfl
  hi := h.hi
  lo := h.lo
  memory := h.memory
  platform := h.platform

/-- The written register reads as the value, unless it is register 0. -/
theorem RegisterEffect.reg_eq {s t : State} {rd : Reg} {v : Word} (h : RegisterEffect s t rd v)
    (hrd : rd ≠ 0#5) : t.reg rd = v :=
  (h.regs rd).trans (if_pos ⟨rfl, hrd⟩)

/-- The bits of `lui`'s operand: zeros below bit 16, the immediate from there on (R45). -/
theorem getLsbD_upperImmediate (h : Imm16) (k : Nat) :
    (upperImmediate h).getLsbD k = if k < 16 then false else h.getLsbD (k - 16) := by
  have happend : (h ++ 0x0000#16).getLsbD k = if k < 16 then false else h.getLsbD (k - 16) := by
    rw [BitVec.getLsbD_append, BitVec.getLsbD_zero]
  exact happend

/-- The upper half over zeros, and the lower half put in (R53). -/
theorem upperImmediate_or_zext16 (a : Word) :
    upperImmediate (a.extractLsb' 16 16) ||| zext16 (a.extractLsb' 0 16) = a := by
  refine BitVec.eq_of_getLsbD_eq fun k hk => ?_
  rw [BitVec.getLsbD_or, getLsbD_upperImmediate, getLsbD_zext16 _ hk, BitVec.getLsbD_extractLsb',
    BitVec.getLsbD_extractLsb']
  by_cases hlow : k < 16
  · simp [hlow]
  · have hupper : k - 16 < 16 := by omega
    have hindex : 16 + (k - 16) = k := by omega
    simp [hlow, hupper, hindex]

/-- Settles O59: `lui` leaves the upper half of the address, `ori` puts the lower half in. -/
theorem loadAddressBuildsTheAddress : Obligations.LoadAddressBuildsTheAddress := by
  intro s rt a
  obtain ⟨t, hlui, hfirst, hpc⟩ : writesRegister (.lui rt (a.extractLsb' 16 16)) s rt
      (upperImmediate (a.extractLsb' 16 16)) := writesRegister_of_result rfl
  obtain ⟨u, hori, hsecond, hpc'⟩ := writesRegister_ori t rt rt (a.extractLsb' 0 16)
  refine ⟨_, _, t, u, rfl, hlui, hori, (hfirst.trans hsecond).congr fun hrt => ?value, ?pc⟩
  case value => rw [hfirst.reg_eq hrt, upperImmediate_or_zext16]
  case pc => rw [hpc', hpc, BitVec.add_assoc]; rfl

/-- Settles O60: a write to register 0 is discarded. -/
theorem nopOnlyAdvancesPc : Obligations.NopOnlyAdvancesPc :=
  ⟨rfl, fun s => congrArg (fun t : State => Host.Outcome.next t.advance) (s.setReg_zero _)⟩

end Sys2Proof.Machine

/-! Loads and stores (44_load_store.md, 20_memory.md). First the layer that the statements share:
addresses, the bytes of a word, and what memory holds after cells are stored. -/

namespace Sys2Proof.Machine

/-! Addresses (R113, R127). -/

/-- A misaligned halfword address is an odd one (20_memory.md R26). -/
theorem getLsbD_zero_eq_false (a : Word) : a.getLsbD 0 = false ↔ a.toNat % 2 = 0 := by
  rw [BitVec.getLsbD, Nat.testBit_zero, decide_eq_false_iff_not]
  omega

/-- The low 32 bits of an integer, as an unsigned reading. -/
theorem toNat_trunc32 (n : Int) : ((trunc32 n).toNat : Int) = n % 2 ^ 32 := by
  rw [trunc32, BitVec.toNat_ofInt]
  omega

/-- Settles O27: the exact sum of R113, cut to 32 bits. -/
theorem effectiveAddressWraps : Obligations.EffectiveAddressWraps := by
  intro s rs offset
  refine ⟨s.effectiveAddress_eq rs offset, ?exact⟩
  case exact => rw [State.effectiveAddress, toNat_trunc32, uval, sval_sext16]

/-- The aligned word's address is the address with its last two bits cleared. -/
theorem toNat_alignedWord (ea : Word) : (alignedWord ea).toNat = ea.toNat - ea.toNat % 4 := by
  have happend : (ea.extractLsb' 2 30 ++ 0b00#2).toNat = ea.toNat - ea.toNat % 4 := by
    rw [BitVec.toNat_append, BitVec.toNat_zero, Nat.or_zero, Nat.shiftLeft_eq,
      BitVec.extractLsb'_toNat, Nat.shiftRight_eq_div_pow]
    omega
  exact happend

theorem significance_little (ea : Word) : significance .little ea = ea.toNat % 4 := by
  rw [significance, BitVec.extractLsb'_toNat]
  rfl

theorem significance_big (ea : Word) : significance .big ea = 3 - ea.toNat % 4 := by
  rw [significance, BitVec.extractLsb'_toNat]
  rfl

theorem toNat_significantByte_little (a : Word) (j : Nat) :
    (significantByte .little a j).toNat = (a.toNat + j) % 2 ^ 32 := by
  rw [significantByte, BitVec.toNat_add, BitVec.toNat_ofNat, Nat.add_mod_mod]

theorem toNat_significantByte_big (a : Word) (j : Nat) :
    (significantByte .big a j).toNat = (a.toNat + (3 - j)) % 2 ^ 32 := by
  rw [significantByte, BitVec.toNat_add, BitVec.toNat_ofNat, Nat.add_mod_mod]

/-- The four bytes of a word have four addresses. -/
theorem significantByte_injective (e : Endian) (a : Word) {i j : Nat} (hi : i < 4) (hj : j < 4)
    (h : significantByte e a i = significantByte e a j) : i = j := by
  have hnat := congrArg BitVec.toNat h
  have ha := a.isLt
  cases e with
  | little => rw [toNat_significantByte_little, toNat_significantByte_little] at hnat; omega
  | big => rw [toNat_significantByte_big, toNat_significantByte_big] at hnat; omega

/-- Left of the byte at `ea`, the aligned word holds the bytes of the word at any address whose most
significant byte is at `ea`. -/
theorem significantByte_alignedWord_left {e : Endian} {a ea : Word} {j : Nat}
    (hea : ea = significantByte e a 3) (hj : j ≤ significance e ea) :
    significantByte e (alignedWord ea) j = significantByte e a (3 - significance e ea + j) := by
  have hnat := congrArg BitVec.toNat hea
  have ha := a.isLt
  refine BitVec.eq_of_toNat_eq ?_
  cases e with
  | little =>
    rw [significance_little] at hj ⊢
    rw [toNat_significantByte_little] at hnat
    rw [toNat_significantByte_little, toNat_significantByte_little, toNat_alignedWord]
    omega
  | big =>
    rw [significance_big] at hj ⊢
    rw [toNat_significantByte_big] at hnat
    rw [toNat_significantByte_big, toNat_significantByte_big, toNat_alignedWord]
    omega

/-- Right of the byte at `ea`, the aligned word holds the bytes of the word at any address whose
least significant byte is at `ea`. -/
theorem significantByte_alignedWord_right {e : Endian} {a ea : Word} {i : Nat}
    (hea : ea = significantByte e a 0) (hi : significance e ea + i < 4) :
    significantByte e (alignedWord ea) (significance e ea + i) = significantByte e a i := by
  have hnat := congrArg BitVec.toNat hea
  have ha := a.isLt
  refine BitVec.eq_of_toNat_eq ?_
  cases e with
  | little =>
    rw [significance_little] at hi ⊢
    rw [toNat_significantByte_little] at hnat
    rw [toNat_significantByte_little, toNat_significantByte_little, toNat_alignedWord]
    omega
  | big =>
    rw [significance_big] at hi ⊢
    rw [toNat_significantByte_big] at hnat
    rw [toNat_significantByte_big, toNat_significantByte_big, toNat_alignedWord]
    omega

/-- The byte at `ea` is `m_k` (R127). -/
theorem significantByte_significance (e : Endian) (ea : Word) :
    significantByte e (alignedWord ea) (significance e ea) = ea := by
  have hea := ea.isLt
  refine BitVec.eq_of_toNat_eq ?_
  cases e with
  | little =>
    rw [toNat_significantByte_little, significance_little, toNat_alignedWord]
    omega
  | big =>
    rw [toNat_significantByte_big, significance_big, toNat_alignedWord]
    omega

/-- Of a word at any address, each byte lies left of its most significant byte's place in one
aligned word or right of its least significant byte's place in one (R128, R129). -/
theorem left_or_right (e : Endian) (a : Word) (j : Nat) (hj : j < 4) :
    3 - significance e (significantByte e a 3) ≤ j ∨
      j ≤ 3 - significance e (significantByte e a 0) := by
  have ha := a.isLt
  cases e with
  | little =>
    rw [significance_little, significance_little, toNat_significantByte_little,
      toNat_significantByte_little]
    omega
  | big =>
    rw [significance_big, significance_big, toNat_significantByte_big, toNat_significantByte_big]
    omega

/-! The bytes of a word (R25, R127). -/

/-- A word is its four bytes. -/
theorem eq_of_registerByte {v w : Word} (h : ∀ j < 4, registerByte v j = registerByte w j) :
    v = w := by
  refine BitVec.eq_of_getLsbD_eq fun k hk => ?_
  have hbit := congrArg (fun b : Byte => b.getLsbD (k % 8)) (h (k / 8) (by omega))
  simpa [registerByte, BitVec.getLsbD_extractLsb', Nat.mod_lt, Nat.div_add_mod] using hbit

/-- The bytes of four bytes put together, the least significant one last. -/
theorem registerByte_append (b3 b2 b1 b0 : Byte) :
    registerByte (b3 ++ b2 ++ b1 ++ b0) 0 = b0 ∧ registerByte (b3 ++ b2 ++ b1 ++ b0) 1 = b1 ∧
    registerByte (b3 ++ b2 ++ b1 ++ b0) 2 = b2 ∧ registerByte (b3 ++ b2 ++ b1 ++ b0) 3 = b3 := by
  refine ⟨extractLsb'_append_low _ b0, ?_, ?_, ?_⟩
  · exact (extractLsb'_append_high _ b0 0 8).trans (extractLsb'_append_low _ b1)
  · exact (extractLsb'_append_high _ b0 8 8).trans <|
      (extractLsb'_append_high _ b1 0 8).trans (extractLsb'_append_low _ b2)
  · exact (extractLsb'_append_high _ b0 16 8).trans <|
      (extractLsb'_append_high _ b1 8 8).trans <|
        (extractLsb'_append_high _ b2 0 8).trans BitVec.extractLsb'_eq_self

/-- A word read from memory has the bytes at the addresses that the byte order gives them. -/
theorem registerByte_readWord (s : State) (a : Word) {j : Nat} (hj : j < 4) :
    registerByte (s.readWord a) j = s.byteAt (significantByte s.platform.endian a j) := by
  cases hend : s.platform.endian with
  | little =>
    obtain ⟨h0, h1, h2, h3⟩ := registerByte_append (s.byteAt (a + 3#32)) (s.byteAt (a + 2#32))
      (s.byteAt (a + 1#32)) (s.byteAt a)
    simp only [State.readWord, bytesWord, significantByte, hend]
    interval_cases j
    · simpa using h0
    · exact h1
    · exact h2
    · exact h3
  | big =>
    obtain ⟨h0, h1, h2, h3⟩ := registerByte_append (s.byteAt a) (s.byteAt (a + 1#32))
      (s.byteAt (a + 2#32)) (s.byteAt (a + 3#32))
    simp only [State.readWord, bytesWord, significantByte, hend]
    interval_cases j
    · exact h0
    · exact h1
    · exact h2
    · simpa using h3

/-- Settles O31: by the address of `m_k` and the bytes of a word read. -/
theorem significanceOfTheAddressedByte : Obligations.SignificanceOfTheAddressedByte :=
  fun s ea => ⟨significance_le _ ea, significantByte_significance _ ea,
    fun _ hj => registerByte_readWord s (alignedWord ea) hj⟩

/-! Merging a word into a register (R120, R121). -/

theorem getLsbD_mergeLeft (w r : Word) (k : Nat) {i : Nat} (hi : i < 32) :
    (mergeLeft w r k).getLsbD i =
      if i < 8 * (3 - k) then r.getLsbD i else w.getLsbD (i - 8 * (3 - k)) := by
  rw [mergeLeft, BitVec.getLsbD_or, BitVec.getLsbD_and, BitVec.getLsbD_shiftLeft,
    BitVec.getLsbD_ofNat, Nat.testBit_two_pow_sub_one]
  by_cases hlow : i < 8 * (3 - k) <;> simp [hi, hlow]

theorem getLsbD_mergeRight (w r : Word) (k : Nat) {i : Nat} (hi : i < 32) :
    (mergeRight w r k).getLsbD i =
      if 8 * k + i < 32 then w.getLsbD (8 * k + i) else r.getLsbD i := by
  have hones : (0xFFFFFFFF#32).getLsbD (8 * k + i) = decide (8 * k + i < 32) :=
    BitVec.getLsbD_allOnes
  rw [mergeRight, BitVec.getLsbD_or, BitVec.getLsbD_and, BitVec.getLsbD_not,
    BitVec.getLsbD_ushiftRight, BitVec.getLsbD_ushiftRight, hones]
  by_cases hlow : 8 * k + i < 32
  · simp [hlow]
  · have hzero : w.getLsbD (8 * k + i) = false := BitVec.getLsbD_of_ge w _ (by omega)
    simp [hi, hlow, hzero]

theorem getLsbD_registerByte (v : Word) (j : Nat) {i : Nat} (hi : i < 8) :
    (registerByte v j).getLsbD i = v.getLsbD (8 * j + i) := by
  simp [registerByte, hi]

/-- `lwl` puts the word's lower bytes in the register's upper ones. -/
theorem registerByte_mergeLeft (w r : Word) {k j : Nat} (hj : j < 4) :
    registerByte (mergeLeft w r k) j =
      if 3 - k ≤ j then registerByte w (j - (3 - k)) else registerByte r j := by
  refine BitVec.eq_of_getLsbD_eq fun i hi => ?_
  rw [getLsbD_registerByte _ _ hi, getLsbD_mergeLeft _ _ _ (by omega)]
  by_cases hleft : 3 - k ≤ j
  · have hindex : 8 * j + i - 8 * (3 - k) = 8 * (j - (3 - k)) + i := by omega
    rw [if_pos hleft, if_neg (by omega), getLsbD_registerByte _ _ hi, hindex]
  · rw [if_neg hleft, if_pos (by omega), getLsbD_registerByte _ _ hi]

/-- `lwr` puts the word's upper bytes in the register's lower ones. -/
theorem registerByte_mergeRight (w r : Word) {k j : Nat} (hk : k ≤ 3) (hj : j < 4) :
    registerByte (mergeRight w r k) j =
      if j ≤ 3 - k then registerByte w (j + k) else registerByte r j := by
  refine BitVec.eq_of_getLsbD_eq fun i hi => ?_
  rw [getLsbD_registerByte _ _ hi, getLsbD_mergeRight _ _ _ (by omega)]
  by_cases hright : j ≤ 3 - k
  · have hindex : 8 * k + (8 * j + i) = 8 * (j + k) + i := by omega
    rw [if_pos hright, if_pos (by omega), getLsbD_registerByte _ _ hi, hindex]
  · rw [if_neg hright, if_neg (by omega), getLsbD_registerByte _ _ hi]

end Sys2Proof.Machine

/-! The loads (44_load_store.md R115 to R121, R128). -/

namespace Sys2Proof.Machine

/-! What a load writes. -/

section

variable {i : Instr} {s : State} {rt : Reg} {a v : Word} {n : Nat}

/-- An access made for a register result is a completed register write. -/
theorem writesRegister_of_access (h : exec i s = s.access .load a n (s.setReg rt v).advance)
    (haligned : a.toNat % n = 0) (hadm : s.admitted .load a n = true) : writesRegister i s rt v :=
  writesRegister_of_result (h.trans (State.access_done haligned hadm _))

theorem writesRegister_of_accessBytes {addrs : List Word}
    (h : exec i s = s.accessBytes .load a addrs (s.setReg rt v).advance)
    (hadm : ∀ b ∈ addrs, s.admitted .load b 1 = true) : writesRegister i s rt v :=
  writesRegister_of_result (h.trans (State.accessBytes_done hadm _))

/-- An access at a misaligned address raises. -/
theorem raises_of_misaligned {kind : AccessKind} {done : State}
    (h : exec i s = s.access kind a n done) (hmisaligned : a.toNat % n ≠ 0) :
    exec i s = s.raise (.addressError kind a) :=
  h.trans (State.access_misaligned hmisaligned done)

/-- An access that is not admitted raises. -/
theorem raises_of_denied {kind : AccessKind} {done : State}
    (h : exec i s = s.access kind a n done) (hdenied : s.admitted kind a n = false) :
    exec i s = s.raise (.addressError kind a) :=
  h.trans (State.access_denied hdenied done)

theorem odd_misaligned (h : a.getLsbD 0 = true) : a.toNat % 2 ≠ 0 := by
  rw [ne_eq, ← getLsbD_zero_eq_false, h]
  exact Bool.noConfusion

end

/-- Settles O28: no address of a byte is misaligned, so admission alone decides. -/
theorem byteLoads : Obligations.ByteLoads := by
  rintro s rt offset rs ea rfl
  refine ⟨rfl, rfl, fun hadm => ⟨⟨_, writesRegister_of_access rfl (Nat.mod_one _) hadm, ?lb⟩,
    ⟨_, writesRegister_of_access rfl (Nat.mod_one _) hadm, ?lbu⟩⟩,
    fun hdenied => ⟨raises_of_denied rfl hdenied, raises_of_denied rfl hdenied⟩⟩
  case lb => exact BitVec.toInt_signExtend_of_le (by decide)
  case lbu => exact BitVec.toNat_setWidth_of_le (by decide)

/-- Settles O29: the halfword read is the one of the statement, in either byte order. -/
theorem halfwordLoads : Obligations.HalfwordLoads := by
  rintro s rt offset rs ea h rfl hhalf
  have hread : s.readHalf (s.effectiveAddress rs offset) = h := by
    rw [hhalf, State.readHalf]
    cases s.platform.endian <;> rfl
  refine ⟨rfl, rfl, fun heven hadm => ?even, fun hodd =>
    ⟨raises_of_misaligned rfl (odd_misaligned hodd),
      raises_of_misaligned rfl (odd_misaligned hodd)⟩⟩
  case even =>
    have haligned := (getLsbD_zero_eq_false _).mp heven
    refine ⟨⟨sext16 (s.readHalf _), writesRegister_of_access rfl haligned hadm, ?lh⟩,
      ⟨zext16 (s.readHalf _), writesRegister_of_access rfl haligned hadm, ?lhu⟩⟩
    case lh => rw [hread, ← sval_sext16, sval]
    case lhu =>
      rw [hread]
      exact BitVec.toNat_setWidth_of_le (by decide)

/-- Settles O30: alignment is the two low bits; the word read is the statement's. -/
theorem wordLoads : Obligations.WordLoads := by
  rintro s rt offset rs ea rfl
  refine ⟨rfl, fun haligned hadm => ?aligned, fun hmisaligned => ?misaligned⟩
  case aligned =>
    have hlw : writesRegister (.lw rt offset rs) s rt (s.readWord (s.effectiveAddress rs offset)) :=
      writesRegister_of_access rfl ((extractLsb'_two_eq_zero _).mp haligned) hadm
    rw [State.readWord] at hlw
    cases hend : s.platform.endian <;> simpa only [hend, bytesWord] using hlw
  case misaligned =>
    exact raises_of_misaligned rfl (mt (extractLsb'_two_eq_zero _).mpr hmisaligned)

/-! The partial-word loads. -/

section

variable {s : State} {rt rs : Reg} {offset : Imm16} {ea : Word}

theorem writesRegister_lwl (hea : s.effectiveAddress rs offset = ea)
    (hadm : ∀ a ∈ leftBytes s.platform.endian ea, s.admitted .load a 1 = true) :
    writesRegister (.lwl rt offset rs) s rt (mergeLeft (s.readWord (alignedWord ea)) (s.reg rt)
      (significance s.platform.endian ea)) := by
  subst hea
  exact writesRegister_of_accessBytes rfl hadm

theorem writesRegister_lwr (hea : s.effectiveAddress rs offset = ea)
    (hadm : ∀ a ∈ rightBytes s.platform.endian ea, s.admitted .load a 1 = true) :
    writesRegister (.lwr rt offset rs) s rt (mergeRight (s.readWord (alignedWord ea)) (s.reg rt)
      (significance s.platform.endian ea)) := by
  subst hea
  exact writesRegister_of_accessBytes rfl hadm

end

/-- Settles O32: the bytes of the merged word are bytes of the aligned word or of the register. -/
theorem partialWordLoads : Obligations.PartialWordLoads := by
  rintro s rt offset rs ea k m hea rfl hm
  have hk := significance_le s.platform.endian ea
  refine ⟨rfl, rfl, fun hadm => ⟨_, writesRegister_lwl hea.symm hadm, fun j hj => ?lwl⟩,
    fun hadm => ⟨_, writesRegister_lwr hea.symm hadm, fun j hj => ?lwr⟩⟩
  case lwl => rw [registerByte_mergeLeft _ _ hj, registerByte_readWord _ _ (by omega), hm]
  case lwr =>
    rw [registerByte_mergeRight _ _ hk hj]
    split
    · rw [registerByte_readWord _ _ (by omega), hm]
    · rfl

/-! The unaligned pair (R128). Each of the two instructions loads a part of the bytes of the word at
the address; between them they load all. -/

/-- The instruction loads those bytes of the word at `a` that lie in `part`, and keeps the others.
-/
def LoadsPart (i : Instr) (s : State) (rt : Reg) (a : Word) (part : Nat → Prop) : Prop :=
  ∃ v, writesRegister i s rt v ∧ ∀ j < 4,
    (part j → registerByte v j = registerByte (s.readWord a) j) ∧
    (¬ part j → registerByte v j = registerByte (s.reg rt) j)

/-- The offset at which the pair's `lwl` or `swl` stands (R128, R129). -/
def leftOffset : Endian → Imm16
  | .little => 3#16
  | .big => 0#16

/-- The offset at which the pair's `lwr` or `swr` stands (R128, R129). -/
def rightOffset : Endian → Imm16
  | .little => 0#16
  | .big => 3#16

/-- The left instruction's effective address is that of the most significant byte. -/
theorem effectiveAddress_leftOffset (s : State) (rs : Reg) (e : Endian) :
    s.effectiveAddress rs (leftOffset e) = significantByte e (s.reg rs) 3 := by
  rw [State.effectiveAddress_eq]
  cases e <;> rfl

/-- The right instruction's effective address is that of the least significant byte. -/
theorem effectiveAddress_rightOffset (s : State) (rs : Reg) (e : Endian) :
    s.effectiveAddress rs (rightOffset e) = significantByte e (s.reg rs) 0 := by
  rw [State.effectiveAddress_eq]
  cases e <;> rfl

/-- The bytes that the pair's left instruction moves, by their significance in the word at `a`. -/
def leftPart (e : Endian) (a : Word) (j : Nat) : Prop :=
  3 - significance e (significantByte e a 3) ≤ j

/-- The bytes that the pair's right instruction moves. -/
def rightPart (e : Endian) (a : Word) (j : Nat) : Prop :=
  j ≤ 3 - significance e (significantByte e a 0)

section

variable {s : State} {rt rs : Reg} {e : Endian} {a : Word}

/-- The bytes that `lwl` at the most significant byte's address loads. -/
theorem registerByte_lwl {ea r : Word} {j : Nat} (hj : j < 4)
    (hea : ea = significantByte s.platform.endian a 3)
    (hpart : 3 - significance s.platform.endian ea ≤ j) :
    registerByte (mergeLeft (s.readWord (alignedWord ea)) r
      (significance s.platform.endian ea)) j = registerByte (s.readWord a) j := by
  rw [registerByte_mergeLeft _ _ hj, if_pos hpart, registerByte_readWord _ _ (by omega),
    registerByte_readWord _ _ hj, significantByte_alignedWord_left hea (by omega),
    Nat.add_sub_cancel' hpart]

/-- The bytes that `lwr` at the least significant byte's address loads. -/
theorem registerByte_lwr {ea r : Word} {j : Nat} (hj : j < 4)
    (hea : ea = significantByte s.platform.endian a 0)
    (hpart : j ≤ 3 - significance s.platform.endian ea) :
    registerByte (mergeRight (s.readWord (alignedWord ea)) r
      (significance s.platform.endian ea)) j = registerByte (s.readWord a) j := by
  have hk := significance_le s.platform.endian ea
  rw [registerByte_mergeRight _ _ hk hj, if_pos hpart, registerByte_readWord _ _ (by omega),
    registerByte_readWord _ _ hj, Nat.add_comm j,
    significantByte_alignedWord_right hea (by omega)]

theorem loadsPart_lwl (hdenied : s.platform.denied = []) (he : s.platform.endian = e)
    (ha : s.reg rs = a) : LoadsPart (.lwl rt (leftOffset e) rs) s rt a (leftPart e a) := by
  subst he ha
  refine ⟨_, writesRegister_lwl (effectiveAddress_leftOffset s rs _)
    fun b _ => admitted_of_denied_eq_nil hdenied .load b 1,
    fun j hj => ⟨registerByte_lwl hj rfl, fun hpart => ?kept⟩⟩
  case kept => exact (registerByte_mergeLeft _ _ hj).trans (if_neg hpart)

theorem loadsPart_lwr (hdenied : s.platform.denied = []) (he : s.platform.endian = e)
    (ha : s.reg rs = a) : LoadsPart (.lwr rt (rightOffset e) rs) s rt a (rightPart e a) := by
  subst he ha
  refine ⟨_, writesRegister_lwr (effectiveAddress_rightOffset s rs _)
    fun b _ => admitted_of_denied_eq_nil hdenied .load b 1,
    fun j hj => ⟨registerByte_lwr hj rfl, fun hpart => ?kept⟩⟩
  case kept => exact (registerByte_mergeRight _ _ (significance_le _ _) hj).trans (if_neg hpart)

end

/-- A word read from memory is the same wherever a register is written. -/
theorem RegisterEffect.readWord_eq {s t : State} {rd : Reg} {v : Word}
    (h : RegisterEffect s t rd v) (a : Word) : t.readWord a = s.readWord a := by
  simp only [State.readWord, h.memory, h.platform]

/-- Two loads of parts that make up the word load the word. -/
theorem loads_word_of_parts {first second : Instr} {s : State} {rt : Reg} {a : Word}
    {part rest : Nat → Prop} (hfirst : LoadsPart first s rt a part)
    (hsecond : ∀ {t v}, RegisterEffect s t rt v → LoadsPart second t rt a rest)
    (hall : ∀ j < 4, part j ∨ rest j) :
    ∃ t u, exec first s = .next t ∧ exec second t = .next u ∧
      RegisterEffect s u rt (s.readWord a) ∧ u.pc = s.pc + 8#32 := by
  obtain ⟨v, ⟨t, hexec, heffect, hpc⟩, hv⟩ := hfirst
  obtain ⟨w, ⟨u, hexec', heffect', hpc'⟩, hw⟩ := hsecond heffect
  refine ⟨t, u, hexec, hexec', (heffect.trans heffect').congr fun hrt => ?value, ?pc⟩
  case value =>
    refine eq_of_registerByte fun j hj => ?_
    by_cases hrest : rest j
    · rw [(hw j hj).1 hrest, heffect.readWord_eq]
    · rw [(hw j hj).2 hrest, heffect.reg_eq hrt, (hv j hj).1 ((hall j hj).resolve_right hrest)]
  case pc => rw [hpc', hpc, BitVec.add_assoc]; rfl

/-- The pair of the statement, in either order, is `lwl` and `lwr` at their offsets. -/
theorem unaligned_load_pair {s : State} {rt rs : Reg} {first second : Instr}
    (hdenied : s.platform.denied = []) (hne : rt ≠ rs)
    (hpair : (first = .lwr rt (rightOffset s.platform.endian) rs ∧
        second = .lwl rt (leftOffset s.platform.endian) rs) ∨
      (first = .lwl rt (leftOffset s.platform.endian) rs ∧
        second = .lwr rt (rightOffset s.platform.endian) rs)) :
    ∃ t u, exec first s = .next t ∧ exec second t = .next u ∧
      RegisterEffect s u rt (s.readWord (s.reg rs)) ∧ u.pc = s.pc + 8#32 := by
  have hbase {t v} (h : RegisterEffect s t rt v) : t.reg rs = s.reg rs :=
    (h.regs rs).trans (if_neg fun hrs => hne hrs.1.symm)
  have hall (j) (hj : j < 4) := left_or_right s.platform.endian (s.reg rs) j hj
  rcases hpair with ⟨rfl, rfl⟩ | ⟨rfl, rfl⟩
  · exact loads_word_of_parts (loadsPart_lwr hdenied rfl rfl)
      (fun h => loadsPart_lwl (by rw [h.platform, hdenied]) (by rw [h.platform]) (hbase h))
      fun j hj => (hall j hj).symm
  · exact loads_word_of_parts (loadsPart_lwl hdenied rfl rfl)
      (fun h => loadsPart_lwr (by rw [h.platform, hdenied]) (by rw [h.platform]) (hbase h)) hall

/-- Settles O33: the statement's pairs are those at the left and right offsets. -/
theorem unalignedLoadIdiom : Obligations.UnalignedLoadIdiom := by
  rintro s rt rs a v hdenied hne rfl hv first second hpair
  have hword : v = s.readWord (s.reg rs) := by
    rw [hv, State.readWord]
    cases s.platform.endian <;> rfl
  rw [hword]
  refine unaligned_load_pair hdenied hne ?_
  cases hend : s.platform.endian with
  | little => rwa [hend] at hpair
  | big =>
    rw [hend] at hpair
    exact hpair.symm

end Sys2Proof.Machine

/-! The stores (44_load_store.md R122 to R126, R129), and reading back what was written
(20_memory.md R25, R36). Every store is a list of cells with different addresses. -/

namespace Sys2Proof.Machine

/-! Memory after cells are stored. -/

/-- A cell stored, and no other at its address, is what the byte there reads as. -/
theorem State.byteAt_writeCells_of_mem {cells : List (Word × Byte)}
    (hnodup : (cells.map Prod.fst).Nodup) {cell : Word × Byte} (hcell : cell ∈ cells) (s : State) :
    (s.writeCells cells).byteAt cell.1 = cell.2 := by
  induction cells generalizing s with
  | nil => cases hcell
  | cons head rest ih =>
    rw [List.map_cons, List.nodup_cons] at hnodup
    obtain ⟨hhead, hrest⟩ := hnodup
    rw [State.writeCells]
    rcases List.mem_cons.mp hcell with rfl | hmem
    · rw [State.byteAt_writeCells_of_notMem _ _ _ hhead, State.byteAt_writeByte, if_pos rfl]
    · exact ih hrest hmem _

theorem halfAddresses_nodup (a : Word) : [a, a + 1#32].Nodup := by
  simp

theorem wordAddresses_nodup (a : Word) : [a, a + 1#32, a + 2#32, a + 3#32].Nodup := by
  simp

/-- The two bytes of a halfword, given by their order in memory, make the halfword again. -/
theorem bytesHalf_halfBytes (e : Endian) (h : Half) :
    ∃ b0 b1, halfBytes e h = [b0, b1] ∧ bytesHalf e b0 b1 = h := by
  have hself : h.extractLsb' 8 8 ++ h.extractLsb' 0 8 = h :=
    (BitVec.extractLsb'_append_extractLsb'_eq_extractLsb' rfl).trans BitVec.extractLsb'_eq_self
  cases e with
  | little => exact ⟨_, _, rfl, hself⟩
  | big => exact ⟨_, _, rfl, hself⟩

/-- A halfword stored is two cells stored (R25). -/
theorem State.writeHalf_eq_writeCells (s : State) (a : Word) (h : Half) :
    ∃ b0 b1, bytesHalf s.platform.endian b0 b1 = h ∧
      s.writeHalf a h = s.writeCells [(a, b0), (a + 1#32, b1)] := by
  obtain ⟨b0, b1, hbytes, hhalf⟩ := bytesHalf_halfBytes s.platform.endian h
  refine ⟨b0, b1, hhalf, ?_⟩
  rw [State.writeHalf, hbytes]
  rfl

/-- A word stored is four cells stored (R25). -/
theorem State.writeWord_eq_writeCells (s : State) (a : Word) (w : Word) :
    ∃ b0 b1 b2 b3, bytesWord s.platform.endian b0 b1 b2 b3 = w ∧
      s.writeWord a w =
        s.writeCells [(a, b0), (a + 1#32, b1), (a + 2#32, b2), (a + 3#32, b3)] := by
  obtain ⟨b0, b1, b2, b3, hbytes, hword⟩ := bytesWord_wordBytes s.platform.endian w
  refine ⟨b0, b1, b2, b3, hword, ?_⟩
  rw [State.writeWord, hbytes, State.writeBytes_eq_writeCells]
  simp

/-- A halfword stored is read back. -/
theorem State.readHalf_writeHalf (s : State) (a : Word) (h : Half) :
    (s.writeHalf a h).readHalf a = h := by
  obtain ⟨b0, b1, hhalf, hcells⟩ := s.writeHalf_eq_writeCells a h
  have hbyte {c} := State.byteAt_writeCells_of_mem (cells := [(a, b0), (a + 1#32, b1)])
    (halfAddresses_nodup a) (cell := c) (s := s)
  rw [hcells, State.readHalf, State.writeCells_platform, hbyte (c := (a, b0)) (by simp),
    hbyte (c := (a + 1#32, b1)) (by simp), hhalf]

/-- A word stored is read back. -/
theorem State.readWord_writeWord (s : State) (a : Word) (w : Word) :
    (s.writeWord a w).readWord a = w := by
  obtain ⟨b0, b1, b2, b3, hword, hcells⟩ := s.writeWord_eq_writeCells a w
  have hbyte {c} := State.byteAt_writeCells_of_mem
    (cells := [(a, b0), (a + 1#32, b1), (a + 2#32, b2), (a + 3#32, b3)])
    (wordAddresses_nodup a) (cell := c) (s := s)
  rw [hcells, State.readWord, State.writeCells_platform, hbyte (c := (a, b0)) (by simp),
    hbyte (c := (a + 1#32, b1)) (by simp), hbyte (c := (a + 2#32, b2)) (by simp),
    hbyte (c := (a + 3#32, b3)) (by simp), hword]

/-- A halfword stored changes its two bytes only. -/
theorem StoreFrame.of_writeHalf (s : State) (a : Word) (h : Half) (pc : Word) :
    StoreFrame s ((s.writeHalf a h).goto pc) [a, a + 1#32] := by
  obtain ⟨b0, b1, -, hcells⟩ := s.writeHalf_eq_writeCells a h
  rw [hcells]
  exact StoreFrame.of_writeCells s _ pc

/-- A word stored changes its four bytes only. -/
theorem StoreFrame.of_writeWord (s : State) (a w : Word) (pc : Word) :
    StoreFrame s ((s.writeWord a w).goto pc) [a, a + 1#32, a + 2#32, a + 3#32] := by
  obtain ⟨b0, b1, b2, b3, -, hcells⟩ := s.writeWord_eq_writeCells a w
  rw [hcells]
  exact StoreFrame.of_writeCells s _ pc

/-- Settles O40: the laws of the three writes. -/
theorem memoryReadsBackWhatWasWritten : Obligations.MemoryReadsBackWhatWasWritten := by
  intro s a b h w
  refine ⟨?byte, s.readHalf_writeHalf a h, s.readWord_writeWord a w, fun c => ⟨?_, ?_, ?_⟩⟩
  case byte => rw [State.byteAt_writeByte, if_pos rfl]
  · intro hc
    rw [State.byteAt_writeByte, if_neg hc]
  · exact (StoreFrame.of_writeHalf s a h 0#32).memory c
  · exact (StoreFrame.of_writeWord s a w 0#32).memory c

/-! Fetch after a store (R36). -/

/-- Going to where `pc` is changes nothing. -/
theorem State.goto_eq_self {s : State} {a : Word} (h : s.pc = a) : s.goto a = s := by
  subst h
  rfl

/-- An instruction whose word was stored at an aligned and admitted `pc` is fetched. -/
theorem fetch_writeWord_encode {s : State} {a : Word} {i : Instr}
    (haligned : a.extractLsb' 0 2 = 0b00#2) (hadm : s.admitted .fetch a 4 = true) :
    fetch ((s.writeWord a (encode i)).goto a) = .ok i := by
  refine fetch_of_decode haligned ?admitted ?word
  case admitted =>
    have hplatform : ((s.writeWord a (encode i)).goto a).platform = s.platform :=
      s.writeBytes_platform a _
    rw [State.admitted, hplatform]
    exact hadm
  case word =>
    have hread := s.readWord_writeWord a (encode i)
    exact (congrArg decode hread).trans (decodeAfterEncode i)

/-- Settles O47: the word read back decodes to the instruction. -/
theorem storedInstructionsAreFetched : Obligations.StoredInstructionsAreFetched := by
  intro s a i haligned hadm
  refine ⟨fetch_writeWord_encode haligned hadm, ?_⟩
  rintro rfl
  have hword : BitVec.ofNat 32 ((encode i).toNat % 2 ^ 32) = encode i := by
    rw [Nat.mod_eq_of_lt (encode i).isLt, BitVec.ofNat_toNat, BitVec.setWidth_eq]
  have hstate : s.withFetchWord 32 (encode i).toNat = (s.writeWord s.pc (encode i)).goto s.pc := by
    rw [State.withFetchWord, hword, State.placeAtPc]
    exact (State.goto_eq_self (s.writeBytes_pc s.pc _)).symm
  rw [hstate]
  exact step_of_fetch_ok (fetch_writeWord_encode haligned hadm)

/-! What a store does. -/

section

variable {i : Instr} {s done : State} {a : Word} {n : Nat} {stored : List Word}
  {holds : State → Prop}

/-- An access made for a store is a completed store. -/
theorem stores_of_access (h : exec i s = s.access .store a n done.advance)
    (haligned : a.toNat % n = 0) (hadm : s.admitted .store a n = true)
    (hframe : StoreFrame s done.advance stored) (hholds : holds done.advance)
    (hpc : done.pc = s.pc) : stores i s stored holds := by
  refine ⟨_, h.trans (State.access_done haligned hadm _), hframe, hholds, ?_⟩
  rw [State.advance_pc, hpc]

/-- Cells stored at different addresses, each admitted, are a completed store of them. -/
theorem stores_of_accessBytes {addrs : List Word} {cells : List (Word × Byte)}
    (h : exec i s = s.accessBytes .store a addrs (s.writeCells cells).advance)
    (hadm : ∀ b ∈ addrs, s.admitted .store b 1 = true) (hnodup : (cells.map Prod.fst).Nodup) :
    stores i s (cells.map Prod.fst) (fun t => ∀ cell ∈ cells, t.byteAt cell.1 = cell.2) :=
  ⟨_, h.trans (State.accessBytes_done hadm _), StoreFrame.of_writeCells s cells _,
    fun _ hcell => State.byteAt_writeCells_of_mem hnodup hcell s, by simp⟩

end

/-- Settles O34: no address of a byte is misaligned, so admission alone decides. -/
theorem byteStores : Obligations.ByteStores := by
  rintro s rt offset rs ea rfl
  refine ⟨rfl, fun hadm => ?stored, fun hdenied => raises_of_denied rfl hdenied⟩
  case stored =>
    refine stores_of_access rfl (Nat.mod_one _) hadm (StoreFrame.of_writeCells s [(_, _)] _) ?_ rfl
    rw [State.advance_byteAt, State.byteAt_writeByte, if_pos rfl]

/-- The bytes of the lower halfword of a register are its two lower bytes. -/
theorem extractLsb'_lowerHalf (r : Word) :
    (r.extractLsb' 0 16).extractLsb' 0 8 = registerByte r 0 ∧
    (r.extractLsb' 0 16).extractLsb' 8 8 = registerByte r 1 := by
  constructor <;> exact BitVec.extractLsb'_extractLsb'_of_le (by decide)

/-- A halfword in memory has its bytes where the byte order puts them (R25). -/
theorem byteAt_of_readHalf {t : State} {a : Word} {h : Half} (hread : t.readHalf a = h) :
    match t.platform.endian with
    | .little => t.byteAt a = h.extractLsb' 0 8 ∧ t.byteAt (a + 1#32) = h.extractLsb' 8 8
    | .big => t.byteAt a = h.extractLsb' 8 8 ∧ t.byteAt (a + 1#32) = h.extractLsb' 0 8 := by
  subst hread
  have hlow (x y : Byte) : (x ++ y).extractLsb' 0 8 = y := extractLsb'_append_low x y
  have hhigh (x y : Byte) : (x ++ y).extractLsb' 8 8 = x :=
    (extractLsb'_append_high x y 0 8).trans BitVec.extractLsb'_eq_self
  rw [State.readHalf]
  cases t.platform.endian with
  | little => exact ⟨(hlow _ _).symm, (hhigh _ _).symm⟩
  | big => exact ⟨(hhigh _ _).symm, (hlow _ _).symm⟩

/-- Settles O35: the halfword stored is read back, so its bytes are where the byte order puts them.
-/
theorem halfwordStores : Obligations.HalfwordStores := by
  rintro s rt offset rs ea rfl
  refine ⟨rfl, fun heven hadm => ?even, fun hodd =>
    raises_of_misaligned rfl (odd_misaligned hodd)⟩
  case even =>
    refine stores_of_access rfl ((getLsbD_zero_eq_false _).mp heven) hadm
      (StoreFrame.of_writeHalf s _ _ _) ?_ (s.writeBytes_pc _ _)
    have hbytes := byteAt_of_readHalf
      (s.readHalf_writeHalf (s.effectiveAddress rs offset) ((s.reg rt).extractLsb' 0 16))
    have hplatform : (s.writeHalf (s.effectiveAddress rs offset)
      ((s.reg rt).extractLsb' 0 16)).platform = s.platform := s.writeBytes_platform _ _
    obtain ⟨hbyte0, hbyte1⟩ := extractLsb'_lowerHalf (s.reg rt)
    rw [hplatform, hbyte0, hbyte1] at hbytes
    exact hbytes

/-- Settles O36: the word stored is read back, so its bytes are where the byte order puts them. -/
theorem wordStores : Obligations.WordStores := by
  rintro s rt offset rs ea rfl
  refine ⟨rfl, fun haligned hadm => ?aligned, fun hmisaligned =>
    raises_of_misaligned rfl (mt (extractLsb'_two_eq_zero _).mpr hmisaligned)⟩
  case aligned =>
    refine stores_of_access rfl ((extractLsb'_two_eq_zero _).mp haligned) hadm
      (StoreFrame.of_writeWord s _ _ _) (fun j hj => ?_) (s.writeBytes_pc _ _)
    have hbyte := registerByte_readWord
      (s.writeWord (s.effectiveAddress rs offset) (s.reg rt)) (s.effectiveAddress rs offset) hj
    have hplatform : (s.writeWord (s.effectiveAddress rs offset) (s.reg rt)).platform =
      s.platform := s.writeBytes_platform _ _
    rw [State.readWord_writeWord, hplatform] at hbyte
    rw [hbyte]
    cases s.platform.endian <;> rfl

/-! The partial-word stores. -/

theorem leftCells_addresses (e : Endian) (ea r : Word) :
    (leftCells e ea r).map Prod.fst = leftBytes e ea := by
  simp [leftCells, leftBytes, Function.comp_def]

theorem rightCells_addresses (e : Endian) (ea r : Word) :
    (rightCells e ea r).map Prod.fst = rightBytes e ea := by
  simp [rightCells, rightBytes, Function.comp_def]

theorem leftBytes_nodup (e : Endian) (ea : Word) : (leftBytes e ea).Nodup := by
  have hk := significance_le e ea
  refine List.nodup_range.map_on fun i hi j hj h => ?_
  rw [List.mem_range] at hi hj
  exact significantByte_injective e _ (by omega) (by omega) h

theorem rightBytes_nodup (e : Endian) (ea : Word) : (rightBytes e ea).Nodup := by
  refine List.nodup_range.map_on fun i hi j hj h => ?_
  rw [List.mem_range] at hi hj
  have hindex := significantByte_injective e _ (by omega) (by omega) h
  omega

section

variable {s : State} {rt rs : Reg} {offset : Imm16} {ea : Word}

/-- `swl` stores the register's upper bytes in `m_0` to `m_k` (R125). -/
theorem stores_swl (hea : s.effectiveAddress rs offset = ea)
    (hadm : ∀ a ∈ leftBytes s.platform.endian ea, s.admitted .store a 1 = true) :
    stores (.swl rt offset rs) s (leftBytes s.platform.endian ea) (fun t =>
      ∀ j ≤ significance s.platform.endian ea,
        t.byteAt (significantByte s.platform.endian (alignedWord ea) j) =
          registerByte (s.reg rt) (3 - significance s.platform.endian ea + j)) := by
  subst hea
  rw [← leftCells_addresses s.platform.endian _ (s.reg rt)]
  obtain ⟨t, hexec, hframe, hholds, hpc⟩ := stores_of_accessBytes (i := .swl rt offset rs) rfl hadm
    (by rw [leftCells_addresses]; exact leftBytes_nodup _ _)
  refine ⟨t, hexec, hframe, fun j hj => ?_, hpc⟩
  exact hholds _ (List.mem_map_of_mem (List.mem_range.mpr (by omega)))

/-- `swr` stores the register's lower bytes in `m_k` to `m_3` (R126). -/
theorem stores_swr (hea : s.effectiveAddress rs offset = ea)
    (hadm : ∀ a ∈ rightBytes s.platform.endian ea, s.admitted .store a 1 = true) :
    stores (.swr rt offset rs) s (rightBytes s.platform.endian ea) (fun t =>
      ∀ i, significance s.platform.endian ea + i < 4 →
        t.byteAt (significantByte s.platform.endian (alignedWord ea)
          (significance s.platform.endian ea + i)) = registerByte (s.reg rt) i) := by
  subst hea
  rw [← rightCells_addresses s.platform.endian _ (s.reg rt)]
  obtain ⟨t, hexec, hframe, hholds, hpc⟩ := stores_of_accessBytes (i := .swr rt offset rs) rfl hadm
    (by rw [rightCells_addresses]; exact rightBytes_nodup _ _)
  refine ⟨t, hexec, hframe, fun i hi => ?_, hpc⟩
  exact hholds _ (List.mem_map_of_mem (List.mem_range.mpr (by omega)))

end

/-- Settles O37: the byte that `swr` stores in `m_j` is the register's byte `j - k`. -/
theorem partialWordStores : Obligations.PartialWordStores := by
  rintro s rt offset rs ea k m hea rfl hm
  obtain rfl : m = significantByte s.platform.endian (alignedWord ea) := funext hm
  refine ⟨rfl, rfl, fun hadm => stores_swl hea.symm hadm, fun hadm => ?swr⟩
  case swr =>
    obtain ⟨t, hexec, hframe, hholds, hpc⟩ := stores_swr (rt := rt) hea.symm hadm
    refine ⟨t, hexec, hframe, fun j hj hkj => ?_, hpc⟩
    have hindex := Nat.add_sub_cancel' hkj
    have hbyte := hholds (j - significance s.platform.endian ea) (by omega)
    rwa [hindex] at hbyte

/-! The unaligned pair (R129). Each of the two instructions stores a part of the register's bytes;
between them they store all. -/

/-- The addresses of the four bytes of a word, in either byte order. -/
def wordAddresses (a : Word) : List Word := [a, a + 1#32, a + 2#32, a + 3#32]

theorem significantByte_mem_wordAddresses (e : Endian) (a : Word) {j : Nat} (hj : j < 4) :
    significantByte e a j ∈ wordAddresses a := by
  cases e <;> interval_cases j <;> simp [significantByte, wordAddresses]

/-- The instruction stores those bytes of `r` that lie in `part` where the word at `a` has them, and
nothing else. -/
def StoresPart (i : Instr) (s : State) (r a : Word) (part : Nat → Prop) : Prop :=
  stores i s (wordAddresses a) (fun t => ∀ j < 4,
    (part j → t.byteAt (significantByte s.platform.endian a j) = registerByte r j) ∧
    (¬ part j → t.byteAt (significantByte s.platform.endian a j) =
      s.byteAt (significantByte s.platform.endian a j)))

/-- More addresses than those stored to make a weaker frame. -/
theorem StoreFrame.mono {s t : State} {stored more : List Word} (h : StoreFrame s t stored)
    (hsub : ∀ a ∈ stored, a ∈ more) : StoreFrame s t more :=
  ⟨h.regs, h.hi, h.lo, fun a ha => h.memory a fun hmem => ha (hsub a hmem), h.platform⟩

theorem StoreFrame.trans {s t u : State} {stored : List Word} (first : StoreFrame s t stored)
    (second : StoreFrame t u stored) : StoreFrame s u stored where
  regs r := (second.regs r).trans (first.regs r)
  hi := second.hi.trans first.hi
  lo := second.lo.trans first.lo
  memory a ha := (second.memory a ha).trans (first.memory a ha)
  platform := second.platform.trans first.platform

/-- The left instruction stores to the places of the word's upper bytes. -/
theorem mem_leftBytes_iff {e : Endian} {a ea b : Word} (hea : ea = significantByte e a 3) :
    b ∈ leftBytes e ea ↔ ∃ j < 4, 3 - significance e ea ≤ j ∧ significantByte e a j = b := by
  have hk := significance_le e ea
  rw [leftBytes, List.mem_map]
  constructor
  · rintro ⟨j, hj, rfl⟩
    rw [List.mem_range] at hj
    exact ⟨3 - significance e ea + j, by omega, by omega,
      (significantByte_alignedWord_left hea (by omega)).symm⟩
  · rintro ⟨j, hj, hpart, rfl⟩
    refine ⟨j - (3 - significance e ea), List.mem_range.mpr (by omega), ?_⟩
    rw [significantByte_alignedWord_left hea (by omega), Nat.add_sub_cancel' hpart]

/-- The right instruction stores to the places of the word's lower bytes. -/
theorem mem_rightBytes_iff {e : Endian} {a ea b : Word} (hea : ea = significantByte e a 0) :
    b ∈ rightBytes e ea ↔ ∃ j < 4, j ≤ 3 - significance e ea ∧ significantByte e a j = b := by
  have hk := significance_le e ea
  rw [rightBytes, List.mem_map]
  constructor
  · rintro ⟨j, hj, rfl⟩
    rw [List.mem_range] at hj
    exact ⟨j, by omega, by omega, (significantByte_alignedWord_right hea (by omega)).symm⟩
  · rintro ⟨j, hj, hpart, rfl⟩
    exact ⟨j, List.mem_range.mpr (by omega), significantByte_alignedWord_right hea (by omega)⟩

/-- A store to the places of some of a word's bytes stores that part of the word. -/
theorem storesPart_of_stores {i : Instr} {s : State} {r a : Word} {stored : List Word}
    {part : Nat → Prop}
    (hstored : ∀ b, b ∈ stored ↔ ∃ j < 4, part j ∧ significantByte s.platform.endian a j = b)
    (h : stores i s stored fun t => ∀ j < 4, part j →
      t.byteAt (significantByte s.platform.endian a j) = registerByte r j) :
    StoresPart i s r a part := by
  obtain ⟨t, hexec, hframe, hholds, hpc⟩ := h
  refine ⟨t, hexec, hframe.mono fun b hb => ?_, fun j hj => ⟨hholds j hj, fun hpart => ?_⟩, hpc⟩
  · obtain ⟨j, hj, -, rfl⟩ := (hstored b).mp hb
    exact significantByte_mem_wordAddresses _ a hj
  · refine hframe.memory _ fun hmem => ?_
    obtain ⟨i, hi, hpart', heq⟩ := (hstored _).mp hmem
    exact hpart (significantByte_injective _ a hi hj heq ▸ hpart')

section

variable {s : State} {rt rs : Reg} {e : Endian} {a r : Word}

theorem storesPart_swl (hdenied : s.platform.denied = []) (he : s.platform.endian = e)
    (ha : s.reg rs = a) (hr : s.reg rt = r) :
    StoresPart (.swl rt (leftOffset e) rs) s r a (leftPart e a) := by
  subst he ha hr
  refine storesPart_of_stores (fun b => mem_leftBytes_iff rfl) ?_
  obtain ⟨t, hexec, hframe, hholds, hpc⟩ := stores_swl (rt := rt)
    (effectiveAddress_leftOffset s rs _) fun b _ => admitted_of_denied_eq_nil hdenied .store b 1
  refine ⟨t, hexec, hframe, fun j hj hpart => ?_, hpc⟩
  unfold leftPart at hpart
  obtain ⟨i, rfl⟩ := Nat.exists_eq_add_of_le hpart
  have hbyte := hholds i (by omega)
  rwa [significantByte_alignedWord_left rfl (by omega)] at hbyte

theorem storesPart_swr (hdenied : s.platform.denied = []) (he : s.platform.endian = e)
    (ha : s.reg rs = a) (hr : s.reg rt = r) :
    StoresPart (.swr rt (rightOffset e) rs) s r a (rightPart e a) := by
  subst he ha hr
  refine storesPart_of_stores (fun b => mem_rightBytes_iff rfl) ?_
  obtain ⟨t, hexec, hframe, hholds, hpc⟩ := stores_swr (rt := rt)
    (effectiveAddress_rightOffset s rs _) fun b _ => admitted_of_denied_eq_nil hdenied .store b 1
  refine ⟨t, hexec, hframe, fun j hj hpart => ?_, hpc⟩
  unfold rightPart at hpart
  have hk := significance_le s.platform.endian (significantByte s.platform.endian (s.reg rs) 0)
  have hbyte := hholds j (by omega)
  rwa [significantByte_alignedWord_right rfl (by omega)] at hbyte

end

/-- Two stores of parts that make up the word store the word. -/
theorem stores_word_of_parts {first second : Instr} {s : State} {r a : Word}
    {part rest : Nat → Prop} (hfirst : StoresPart first s r a part)
    (hsecond : ∀ {t}, StoreFrame s t (wordAddresses a) → StoresPart second t r a rest)
    (hall : ∀ j < 4, part j ∨ rest j) :
    ∃ t u, exec first s = .next t ∧ exec second t = .next u ∧
      StoreFrame s u (wordAddresses a) ∧ u.pc = s.pc + 8#32 ∧
      ∀ j < 4, u.byteAt (significantByte s.platform.endian a j) = registerByte r j := by
  obtain ⟨t, hexec, hframe, hholds, hpc⟩ := hfirst
  obtain ⟨u, hexec', hframe', hholds', hpc'⟩ := hsecond hframe
  rw [hframe.platform] at hholds'
  refine ⟨t, u, hexec, hexec', hframe.trans hframe', ?pc, fun j hj => ?byte⟩
  case pc => rw [hpc', hpc, BitVec.add_assoc]; rfl
  case byte =>
    by_cases hrest : rest j
    · exact (hholds' j hj).1 hrest
    · rw [(hholds' j hj).2 hrest, (hholds j hj).1 ((hall j hj).resolve_right hrest)]

/-- Settles O38: the pair is `swl` and `swr` at their offsets, in the order of the byte order. -/
theorem unalignedStoreIdiom : Obligations.UnalignedStoreIdiom := by
  rintro s rt rs a hdenied rfl
  have hall (j) (hj : j < 4) := left_or_right s.platform.endian (s.reg rs) j hj
  cases he : s.platform.endian with
  | little =>
    rw [he] at hall
    obtain ⟨t, u, hswr, hswl, hframe, hpc, hholds⟩ := stores_word_of_parts
      (storesPart_swr (rt := rt) hdenied he rfl rfl)
      (fun h => storesPart_swl (by rw [h.platform, hdenied]) (by rw [h.platform, he]) (h.regs rs)
        (h.regs rt))
      fun j hj => (hall j hj).symm
    rw [he] at hholds
    exact ⟨t, u, hswr, hswl, hframe, hpc, hholds⟩
  | big =>
    rw [he] at hall
    obtain ⟨t, u, hswl, hswr, hframe, hpc, hholds⟩ := stores_word_of_parts
      (storesPart_swl (rt := rt) hdenied he rfl rfl)
      (fun h => storesPart_swr (by rw [h.platform, hdenied]) (by rw [h.platform, he]) (h.regs rs)
        (h.regs rt))
      hall
    rw [he] at hholds
    refine ⟨t, u, hswl, hswr, hframe, hpc, fun j hj => ?_⟩
    have hindex : 3 - (3 - j) = j := by omega
    have hbyte := hholds (3 - j) (by omega)
    rwa [significantByte, hindex] at hbyte

/-- Settles O39: each instruction is one access, or byte accesses, at its effective address. -/
theorem accessesNotAdmittedRaise : Obligations.AccessesNotAdmittedRaise := by
  rintro s rt offset rs ea rfl
  refine ⟨fun h => ?lb, fun h => ?lh, fun h => raises_of_denied rfl h,
    fun h => raises_of_denied rfl h, fun h => raises_of_denied rfl h,
    fun h => raises_of_denied rfl h, fun h => State.accessBytes_denied h _,
    fun h => State.accessBytes_denied h _, fun h => State.accessBytes_denied h _,
    fun h => State.accessBytes_denied h _⟩
  case lb | lh =>
    intro i hi
    rcases List.mem_pair.mp hi with rfl | rfl
    · exact raises_of_denied rfl h
    · exact raises_of_denied rfl h

end Sys2Proof.Machine
